-- ==== Sys2Proof/Word.lean ====
section
/-!
DEFINITION. The machine's words. Every register, immediate and address is unsigned (00_scope.md R10).
-/

namespace Sys2Proof

/-- A memory cell, a general register, a timer, the immediate `kk`: 8 bits (00_scope.md R9 `REG_W`). -/
abbrev Byte := BitVec 8

/-- An opcode, the index register, the program counter, a return address: 16 bits (R9 `I_W`, `PC_W`; R70). -/
abbrev Word := BitVec 16

/-- A register field `x` or `y` of an opcode, used directly as an index 0 to 15 (30_encoding.md R71, R73). -/
abbrev Reg := BitVec 4

/-- The nibble count `n` and every other 4-bit slice of an opcode (R71). -/
abbrev Nibble := BitVec 4

/-- The 12-bit address field `nnn` (R71). -/
abbrev Addr := BitVec 12

/-- A key of the 16-symbol keypad: "the key argument is 4 bits wide" (60_exceptions.md R192). -/
abbrev Key := BitVec 4

end Sys2Proof
end

