-- ==== Sys2Proof/Config.lean ====
section
/-!
DEFINITION. What an implementation fixes (00_scope.md R9) and the free values: the constants of the standard
profile, the alternatives of the named parameters, and the opaque constants nothing in Lean can evaluate.
The values the spec takes for `SHIFT_SRC`, `DRAW_VWRAP` and `FONT` stand in Machine/Params.lean.
-/

namespace Sys2Proof.Config

/-- `MEM_SIZE`, the number of memory cells (R9, R50). -/
@[simp] abbrev memSize : Nat := 4096

/-- `PROG_START`, the reset value of pc and the load address of a program (R9). -/
@[simp] abbrev progStart : Nat := 0x200

/-- `FONT_BASE`, the base address of the font table (R9). -/
@[simp] abbrev fontBase : Nat := 0x050

/-- `GLYPH_BYTES`, the bytes of one glyph (R9). -/
@[simp] abbrev glyphBytes : Nat := 5

/-- `DISPLAY_W`, the pixels of a display row (R9). -/
@[simp] abbrev displayW : Nat := 64

/-- `DISPLAY_H`, the display rows (R9). -/
@[simp] abbrev displayH : Nat := 32

/-- `STACK_DEPTH`, the greatest number of return addresses held (R9, R28, D20). -/
@[simp] abbrev stackDepth : Nat := 16

/-- The alternatives of `ADDI_FLAG_MODE`: what FX1E does to VF (R9, R131, D8). -/
inductive AddiFlagMode where
  | none
  | setOnly
  | setClear
  deriving DecidableEq, Repr, Inhabited

/-- The alternatives of `SHIFT_SRC`: which register 8XY6 and 8XYE read (R9, R123, D5). -/
inductive ShiftSrc where
  | x
  | y
  deriving DecidableEq, Repr, Inhabited

/-- `ADDI_FLAG_MODE` is OPEN in the spec (R9, U1): an opaque constant, so a statement about FX1E holds in every
mode. Log 6. -/
opaque addiFlagMode : AddiFlagMode

/-- The value `rand8` drawn by CXNN, "a value from outside the state" under no law (R124, U7): a free value for
each value of the counter `State.free`. Log 5. -/
opaque rand8 : Nat → Byte

end Sys2Proof.Config
end

