-- ==== Sys2Proof/Syntax.lean ====
section
/-!
DEFINITION. The instruction set: one constructor for each of the 33 rows of 30_encoding.md R75, in the table's
order. Operands are the fields of R71: `x`, `y` register indices, `kk` an 8-bit immediate, `nnn` a 12-bit address,
`n` a nibble count. The low nibble of 5XY_ and 9XY_ is no operand (R81).
-/

namespace Sys2Proof

/-- The decoded instruction: "a closed, tagged variant enumerating every opcode family" (10_state.md R42). -/
inductive Instr where
  /-- 00E0 `CLS` clear-screen (R140). -/
  | cls
  /-- 00EE `RET` return-from-subroutine (R100). -/
  | ret
  /-- 1NNN `JP nnn` jump (R101). -/
  | jp (nnn : Addr)
  /-- 2NNN `CALL nnn` call (R102). -/
  | call (nnn : Addr)
  /-- 3XNN `SE Vx, kk` skip-if-register-equals-immediate (R103). -/
  | seImm (x : Reg) (kk : Byte)
  /-- 4XNN `SNE Vx, kk` skip-if-register-not-equals-immediate (R104). -/
  | sneImm (x : Reg) (kk : Byte)
  /-- 5XY_ `SE Vx, Vy` skip-if-registers-equal (R105). -/
  | seReg (x y : Reg)
  /-- 6XNN `LD Vx, kk` set-register-immediate (R112). -/
  | ldImm (x : Reg) (kk : Byte)
  /-- 7XNN `ADD Vx, kk` add-immediate-to-register (R113). -/
  | addImm (x : Reg) (kk : Byte)
  /-- 8XY0 `LD Vx, Vy` register-copy (R114). -/
  | ldReg (x y : Reg)
  /-- 8XY1 `OR Vx, Vy` bitwise-or (R115). -/
  | orReg (x y : Reg)
  /-- 8XY2 `AND Vx, Vy` bitwise-and (R116). -/
  | andReg (x y : Reg)
  /-- 8XY3 `XOR Vx, Vy` bitwise-xor (R117). -/
  | xorReg (x y : Reg)
  /-- 8XY4 `ADD Vx, Vy` register-add-with-carry-flag (R118). -/
  | addReg (x y : Reg)
  /-- 8XY5 `SUB Vx, Vy` register-subtract-with-borrow-flag, Vx - Vy (R119). -/
  | subReg (x y : Reg)
  /-- 8XY6 `SHR Vx, Vy` shift-right-with-lost-bit-flag (R120). -/
  | shr (x y : Reg)
  /-- 8XY7 `SUBN Vx, Vy` register-subtract-with-borrow-flag, Vy - Vx (R121). -/
  | subn (x y : Reg)
  /-- 8XYE `SHL Vx, Vy` shift-left-with-lost-bit-flag (R122). -/
  | shl (x y : Reg)
  /-- 9XY_ `SNE Vx, Vy` skip-if-registers-not-equal (R106). -/
  | sneReg (x y : Reg)
  /-- ANNN `LD I, nnn` set-index-register (R130). -/
  | ldI (nnn : Addr)
  /-- CXNN `RND Vx, kk` randomize-register-masked (R124). -/
  | rnd (x : Reg) (kk : Byte)
  /-- DXYN `DRW Vx, Vy, n` draw-sprite (R141). -/
  | drw (x y : Reg) (n : Nibble)
  /-- EX9E `SKP Vx` skip-if-key-down (R160). -/
  | skp (x : Reg)
  /-- EXA1 `SKNP Vx` skip-if-key-up (R161). -/
  | sknp (x : Reg)
  /-- FX07 `LD Vx, DT` read-delay-timer (R163). -/
  | ldVxDt (x : Reg)
  /-- FX15 `LD DT, Vx` write-delay-timer (R164). -/
  | ldDtVx (x : Reg)
  /-- FX18 `LD ST, Vx` write-sound-timer (R165). -/
  | ldStVx (x : Reg)
  /-- FX1E `ADD I, Vx` add-register-to-index-with-overflow-flag (R131). -/
  | addI (x : Reg)
  /-- FX0A `LD Vx, K` block-until-key-release (R162). -/
  | ldVxK (x : Reg)
  /-- FX29 `LD F, Vx` set-index-to-font-glyph (R132). -/
  | ldF (x : Reg)
  /-- FX33 `LD B, Vx` store-binary-coded-decimal (R133). -/
  | ldB (x : Reg)
  /-- FX55 `LD [I], Vx` store-register-range-to-memory (R134). -/
  | storeRegs (x : Reg)
  /-- FX65 `LD Vx, [I]` load-register-range-from-memory (R135). -/
  | loadRegs (x : Reg)
  deriving DecidableEq, Repr

end Sys2Proof
end

