-- ==== Sys2Proof/WellFormed.lean ====
section
/-!
DEFINITION. Well-formed instructions. The spec gives no instruction an operand value that is reserved, illegal or
out of range: every field is used over its full width (30_encoding.md R71, R73; R82 "no reserved encodings"). The
widths are in the types of `Instr`, so an ill-formed instruction cannot be written down and this check, made
constructor by constructor, refuses none. A new constructor or a new restriction of the spec gets its check here.
-/

namespace Sys2Proof

/-- Whether the operands are ones the encoding admits: all of them are (R73). -/
def Instr.wellFormed : Instr → Bool
  | .cls | .ret => true
  | .jp _ | .call _ | .ldI _ => true
  | .seImm _ _ | .sneImm _ _ | .ldImm _ _ | .addImm _ _ | .rnd _ _ => true
  | .seReg _ _ | .sneReg _ _ => true
  | .ldReg _ _ | .orReg _ _ | .andReg _ _ | .xorReg _ _ | .addReg _ _ => true
  | .subReg _ _ | .shr _ _ | .subn _ _ | .shl _ _ => true
  | .drw _ _ _ => true
  | .skp _ | .sknp _ => true
  | .ldVxDt _ | .ldDtVx _ | .ldStVx _ | .addI _ | .ldVxK _ => true
  | .ldF _ | .ldB _ | .storeRegs _ | .loadRegs _ => true

end Sys2Proof
end

