-- ==== Sys2Proof/Decode.lean ====
section
/-!
DEFINITION. The decoder (30_encoding.md R70 to R83), total on any word and on any bytes, rejecting by name; after
it the encoder, written from the same table (R75). The bit patterns are the spec's own assignment but for 00E0,
1NNN and DXYN (D1, log 10).
-/

namespace Sys2Proof

/-- `op[15:12]`, the family selector n3 (R71). -/
def fieldN3 (op : Word) : Nibble := op.extractLsb' 12 4

/-- `op[11:8]`, the first register index x (R71). -/
def fieldX (op : Word) : Reg := op.extractLsb' 8 4

/-- `op[7:4]`, the second register index y (R71). -/
def fieldY (op : Word) : Reg := op.extractLsb' 4 4

/-- `op[3:0]`, the nibble count n or the second discriminant of family 0x8 (R71). -/
def fieldN (op : Word) : Nibble := op.extractLsb' 0 4

/-- `op[7:0]`, the immediate kk or the second discriminant of families 0xE and 0xF (R71). -/
def fieldKk (op : Word) : Byte := op.extractLsb' 0 8

/-- `op[11:0]`, the address nnn (R71). -/
def fieldNnn (op : Word) : Addr := op.extractLsb' 0 12

/-- Why bytes decode to no instruction. -/
inductive DecodeError where
  /-- No pattern matches the word: "unknown opcode" (R77, R78). The step turns it into the fatal error 2. -/
  | unknownOpcode (op : Word)
  /-- Fewer than the two bytes of an instruction were given (R70). A fetch always gives two. -/
  | truncated
  deriving DecidableEq, Repr

/-- Family 0x0: the whole word is matched (R74, R80). -/
def decodeFamily0 (op : Word) : Except DecodeError Instr :=
  if op = 0x00E0#16 then .ok .cls
  else if op = 0x00EE#16 then .ok .ret
  else .error (.unknownOpcode op)

/-- Family 0x8: the low nibble is the second discriminant (R74). -/
def decodeFamily8 (op : Word) : Except DecodeError Instr :=
  match fieldN op with
  | 0x0#4 => .ok (.ldReg (fieldX op) (fieldY op))
  | 0x1#4 => .ok (.orReg (fieldX op) (fieldY op))
  | 0x2#4 => .ok (.andReg (fieldX op) (fieldY op))
  | 0x3#4 => .ok (.xorReg (fieldX op) (fieldY op))
  | 0x4#4 => .ok (.addReg (fieldX op) (fieldY op))
  | 0x5#4 => .ok (.subReg (fieldX op) (fieldY op))
  | 0x6#4 => .ok (.shr (fieldX op) (fieldY op))
  | 0x7#4 => .ok (.subn (fieldX op) (fieldY op))
  | 0xE#4 => .ok (.shl (fieldX op) (fieldY op))
  | _ => .error (.unknownOpcode op)

/-- Family 0xE: the low byte is the second discriminant (R74). -/
def decodeFamilyE (op : Word) : Except DecodeError Instr :=
  match fieldKk op with
  | 0x9E#8 => .ok (.skp (fieldX op))
  | 0xA1#8 => .ok (.sknp (fieldX op))
  | _ => .error (.unknownOpcode op)

/-- Family 0xF: the low byte is the second discriminant (R74). -/
def decodeFamilyF (op : Word) : Except DecodeError Instr :=
  match fieldKk op with
  | 0x07#8 => .ok (.ldVxDt (fieldX op))
  | 0x0A#8 => .ok (.ldVxK (fieldX op))
  | 0x15#8 => .ok (.ldDtVx (fieldX op))
  | 0x18#8 => .ok (.ldStVx (fieldX op))
  | 0x1E#8 => .ok (.addI (fieldX op))
  | 0x29#8 => .ok (.ldF (fieldX op))
  | 0x33#8 => .ok (.ldB (fieldX op))
  | 0x55#8 => .ok (.storeRegs (fieldX op))
  | 0x65#8 => .ok (.loadRegs (fieldX op))
  | _ => .error (.unknownOpcode op)

/-- `Decode(op)`, a "pure, stateless mapping from a 16-bit opcode to one tagged instruction" (R74). The last case
is n3 = 0xB, which no row of R75 has (R79). -/
def decodeWord (op : Word) : Except DecodeError Instr :=
  match fieldN3 op with
  | 0x0#4 => decodeFamily0 op
  | 0x1#4 => .ok (.jp (fieldNnn op))
  | 0x2#4 => .ok (.call (fieldNnn op))
  | 0x3#4 => .ok (.seImm (fieldX op) (fieldKk op))
  | 0x4#4 => .ok (.sneImm (fieldX op) (fieldKk op))
  | 0x5#4 => .ok (.seReg (fieldX op) (fieldY op))
  | 0x6#4 => .ok (.ldImm (fieldX op) (fieldKk op))
  | 0x7#4 => .ok (.addImm (fieldX op) (fieldKk op))
  | 0x8#4 => decodeFamily8 op
  | 0x9#4 => .ok (.sneReg (fieldX op) (fieldY op))
  | 0xA#4 => .ok (.ldI (fieldNnn op))
  | 0xC#4 => .ok (.rnd (fieldX op) (fieldKk op))
  | 0xD#4 => .ok (.drw (fieldX op) (fieldY op) (fieldN op))
  | 0xE#4 => decodeFamilyE op
  | 0xF#4 => decodeFamilyF op
  | _ => .error (.unknownOpcode op)

/-- The opcode of two consecutive bytes, big-endian: the byte at the lower address is the high one (R70, R53). -/
def wordOfBytes (hi lo : Byte) : Word := hi ++ lo

/-- The two bytes of an opcode in the order memory holds them (R53, R70). -/
def bytesOfWord (op : Word) : List Byte := [op.extractLsb' 8 8, op.extractLsb' 0 8]

/-- The decoder on bytes: one instruction and the bytes after it. Every instruction is two bytes (R70, R83). -/
def decode : List Byte → Except DecodeError (Instr × List Byte)
  | hi :: lo :: rest =>
    match decodeWord (wordOfBytes hi lo) with
    | .ok i => .ok (i, rest)
    | .error e => .error e
  | _ => .error .truncated

/-- The opcode whose bits, numbered as spec/opcode_table.json numbers them, are the low `nbits` bits of `w`; every
row of the table has 16 bits, so this is the word itself. -/
def tableWord (nbits w : Nat) : Word := BitVec.ofNat 16 (w % 2 ^ nbits)

/-- What the decoder reads from that opcode laid out as memory holds it. -/
def decodeTableWord (nbits w : Nat) : Option Instr :=
  match decode (bytesOfWord (tableWord nbits w)) with
  | .ok (i, _) => some i
  | .error _ => none

/-- Format `A` of R72: a family and a 12-bit address. -/
def encodeA (n3 : Nibble) (nnn : Addr) : Word := n3 ++ nnn

/-- Format `XK` of R72: a family, a register and a low byte. Format `X` is this with a discriminant as low byte. -/
def encodeXK (n3 : Nibble) (x : Reg) (kk : Byte) : Word := n3 ++ x ++ kk

/-- Formats `XY` and `XYN` of R72: a family, two registers and a low nibble. -/
def encodeXYN (n3 : Nibble) (x y : Reg) (n : Nibble) : Word := n3 ++ x ++ y ++ n

/-- The opcode of an instruction (R75). The ignored low nibble of 5XY_ and 9XY_ is the canonical 0 (R81). -/
def encode : Instr → Word
  | .cls => 0x00E0#16
  | .ret => 0x00EE#16
  | .jp nnn => encodeA 0x1#4 nnn
  | .call nnn => encodeA 0x2#4 nnn
  | .seImm x kk => encodeXK 0x3#4 x kk
  | .sneImm x kk => encodeXK 0x4#4 x kk
  | .seReg x y => encodeXYN 0x5#4 x y 0x0#4
  | .ldImm x kk => encodeXK 0x6#4 x kk
  | .addImm x kk => encodeXK 0x7#4 x kk
  | .ldReg x y => encodeXYN 0x8#4 x y 0x0#4
  | .orReg x y => encodeXYN 0x8#4 x y 0x1#4
  | .andReg x y => encodeXYN 0x8#4 x y 0x2#4
  | .xorReg x y => encodeXYN 0x8#4 x y 0x3#4
  | .addReg x y => encodeXYN 0x8#4 x y 0x4#4
  | .subReg x y => encodeXYN 0x8#4 x y 0x5#4
  | .shr x y => encodeXYN 0x8#4 x y 0x6#4
  | .subn x y => encodeXYN 0x8#4 x y 0x7#4
  | .shl x y => encodeXYN 0x8#4 x y 0xE#4
  | .sneReg x y => encodeXYN 0x9#4 x y 0x0#4
  | .ldI nnn => encodeA 0xA#4 nnn
  | .rnd x kk => encodeXK 0xC#4 x kk
  | .drw x y n => encodeXYN 0xD#4 x y n
  | .skp x => encodeXK 0xE#4 x 0x9E#8
  | .sknp x => encodeXK 0xE#4 x 0xA1#8
  | .ldVxDt x => encodeXK 0xF#4 x 0x07#8
  | .ldDtVx x => encodeXK 0xF#4 x 0x15#8
  | .ldStVx x => encodeXK 0xF#4 x 0x18#8
  | .addI x => encodeXK 0xF#4 x 0x1E#8
  | .ldVxK x => encodeXK 0xF#4 x 0x0A#8
  | .ldF x => encodeXK 0xF#4 x 0x29#8
  | .ldB x => encodeXK 0xF#4 x 0x33#8
  | .storeRegs x => encodeXK 0xF#4 x 0x55#8
  | .loadRegs x => encodeXK 0xF#4 x 0x65#8

end Sys2Proof
end

