-- ==== Sys2Proof/Machine/State.lean ====
section
/-!
DEFINITION. The state of the block (10_state.md), as plain data: CPU, Memory, Display, Keyboard, fault record; the
state right after reset; and the reasons a step can stop without a next state.
-/

namespace Sys2Proof.Machine

/-- Memory: the cells that are not 0x00, in rising order of address; an unlisted address below 4096 reads as 0x00,
the value of a cell never written since reset (20_memory.md R50, R56). -/
abbrev Memory := List Host.Cell

/-- The grid of 32 rows of 64 cells, row 0 at the top and column 0 at the left; `true` is on (R31). -/
abbrev Grid := Vector (Vector Bool 64) 32

/-- The Display (R31 to R33). -/
structure Display where
  /-- `px`, the 2048 cells (R31). -/
  px : Grid
  /-- The per-draw collision flag (R32). -/
  collision : Bool
  /-- The dirty flag, "a redraw is owed" (R33). -/
  dirty : Bool
  deriving DecidableEq, Repr, Inhabited

/-- The Keyboard: "an edge-triggered model with three pieces of state" (R34). -/
structure Keyboard where
  /-- The currently-down key. -/
  down : Option Key
  /-- The most-recently-released key. -/
  last : Option Key
  /-- The one-shot "a key was released since last poll" signal. -/
  signal : Bool
  deriving DecidableEq, Repr, Inhabited

/-- The number of a fatal error's kind (60_exceptions.md R171). -/
inductive ErrorCode where
  | outOfBounds
  | unknownOpcode
  | stackUnderflow
  | stackOverflow
  deriving DecidableEq, Repr, Inhabited

/-- The fault record `Some(code, ia, op, maddr)` (R36, R171). -/
structure FaultRecord where
  code : ErrorCode
  /-- The address of the instruction whose step failed; absent when a load failed (R201). -/
  ia : Option Word
  /-- Its opcode word; absent when the fetch itself failed (R36) and when a load failed (R201). -/
  op : Option Word
  /-- The first byte address that is 4096 or more; present for OutOfBounds only (R36, R171). -/
  maddr : Option Nat
  deriving DecidableEq, Repr, Inhabited

/-- The host's operations that are transitions of the state (60_exceptions.md R190). The queries and outputs of
that list change nothing; they are functions of the state in Machine/HostOps.lean. -/
inductive HostOp where
  | reset
  | loadFont
  | loadProgram (bytes : List Byte)
  | step
  | tickTimers
  | keyDown (k : Key)
  | keyUp
  | clearSignals
  | consumeDirty
  deriving DecidableEq, Repr

/-- The whole state of the block (10_state.md, the tuple at its head). -/
structure State where
  /-- V0 to VF; VF is `v[15]` (R20, R21). -/
  v : Vector Byte 16
  /-- The index register (R23). -/
  I : Word
  /-- The program counter (R24). -/
  pc : Word
  /-- The cells of the call stack; those at index sp and above have no meaning (R28). -/
  stack : Vector Word 16
  /-- The number of return addresses held, 0 to 16 (R28). -/
  sp : Fin 17
  /-- The delay timer (R29). -/
  dt : Byte
  /-- The sound timer (R30). -/
  st : Byte
  /-- Memory (R50). -/
  mem : Memory
  /-- The Display (R31 to R33). -/
  display : Display
  /-- The Keyboard (R34). -/
  kb : Keyboard
  /-- The fault record, `none` while the machine runs (R36). -/
  fault : Option FaultRecord
  /-- Whether the first `step()` of this run has happened: loads have a transition only before it (R197). Log 12. -/
  started : Bool
  /-- The model's own: how many free values have been drawn. Log 5. -/
  free : Nat
  /-- The model's own: the host operations still to come, oldest first; an empty list means the CPU steps. Log 11. -/
  hostOps : List HostOp
  deriving DecidableEq, Repr, Inhabited

/-- Reasons a step stops with a fault: none. Each of the spec's four fatal errors has an effect the spec describes
(R174: it writes the fault record; R175: later steps do nothing), so it is a next state of this model, not a stop.
Safe: no claim can rest on a stop that is not there. Log 3. -/
inductive Fault where
  deriving DecidableEq, Repr

/-- Reasons a step has no meaning. Each is safe: nothing follows from a step that is refused. -/
inductive Refusal where
  /-- Raised by an arm of `exec` whose instruction has no meaning yet; safe. No arm raises it in this model. -/
  | notModelled (mnemonic : String)
  /-- Raised by FX0A when a release is signalled and no key was ever released, a state the spec gives no meaning
  and no run reaches (44_keys_timers.md R162 (f), R35, D36); safe. Log 14. -/
  | keySignalWithoutKey
  /-- Raised by a load after the first step, which the spec gives no transition (60_exceptions.md R197, D28);
  safe. Log 13. -/
  | loadAfterFirstStep
  /-- Raised by a host operation other than `step()` and `reset()` after a fatal error, which has no specified
  effect (R175, U21); safe. Log 13. -/
  | hostOpAfterFault
  deriving DecidableEq, Repr

/-- A blank display: every cell 0, no collision, not dirty (R43). -/
def Display.blank : Display where
  px := Vector.replicate 32 (Vector.replicate 64 false)
  collision := false
  dirty := false

/-- No key down, none released, no signal (R43). -/
def Keyboard.quiet : Keyboard where
  down := none
  last := none
  signal := false

/-- The machine right after reset (R43, 70_reset_and_hazards.md R210): pc at 0x200, memory and every register zero,
the stack empty, the display blank, the keyboard quiet, no fault. The contents of the dead stack cells, `free` and
`hostOps` are the model's own choice (log 2, 5, 11). -/
def State.reset : State where
  v := Vector.replicate 16 0
  I := 0
  pc := 0x200
  stack := Vector.replicate 16 0
  sp := 0
  dt := 0
  st := 0
  mem := []
  display := Display.blank
  kb := Keyboard.quiet
  fault := none
  started := false
  free := 0
  hostOps := []

end Sys2Proof.Machine
end

