-- ==== Sys2Proof/Machine/FreeState.lean ====
section
/-!
DEFINITION. The free value for the state after a fatal error: "every element but the fault record is any value"
(93_implementation_defined.md U6; 60_exceptions.md R174).
-/

/-- The state a fatal error leaves, for each value of the counter `State.free`: an opaque constant, nothing in Lean
can evaluate it. Log 4. -/
opaque Sys2Proof.Config.stateAfterFault : Nat → Sys2Proof.Machine.State
end

