-- ==== Sys2Proof/Machine/Params.lean ====
section
/-!
DEFINITION. The values this hardware takes for the named parameters of 00_scope.md R9.
-/

namespace Sys2Proof.Machine

/-- `SHIFT_SRC`: the spec takes `X` (R123, D5). Log 7. -/
def shiftSrc : Config.ShiftSrc := .x

/-- `DRAW_VWRAP`: the spec takes false (R147, D12). Log 8. -/
def drawVwrap : Bool := false

/-- `ADDI_FLAG_MODE`: OPEN in the spec, so the opaque constant (R131, D8). Log 6. -/
def addiFlagMode : Config.AddiFlagMode := Config.addiFlagMode

/-- `FONT`: the 80 bytes the spec takes by default, one row per glyph (20_memory.md R60, D24). Log 9. -/
def fontTable : List Byte :=
  [0xF0, 0x90, 0x90, 0x90, 0xF0] ++ -- 0
  [0x20, 0x60, 0x20, 0x20, 0x70] ++ -- 1
  [0xF0, 0x10, 0xF0, 0x80, 0xF0] ++ -- 2
  [0xF0, 0x10, 0xF0, 0x10, 0xF0] ++ -- 3
  [0x90, 0x90, 0xF0, 0x10, 0x10] ++ -- 4
  [0xF0, 0x80, 0xF0, 0x10, 0xF0] ++ -- 5
  [0xF0, 0x80, 0xF0, 0x90, 0xF0] ++ -- 6
  [0xF0, 0x10, 0x20, 0x40, 0x40] ++ -- 7
  [0xF0, 0x90, 0xF0, 0x90, 0xF0] ++ -- 8
  [0xF0, 0x90, 0xF0, 0x10, 0xF0] ++ -- 9
  [0xF0, 0x90, 0xF0, 0x90, 0x90] ++ -- A
  [0xE0, 0x90, 0xE0, 0x90, 0xE0] ++ -- B
  [0xF0, 0x80, 0x80, 0x80, 0xF0] ++ -- C
  [0xE0, 0x90, 0x90, 0x90, 0xE0] ++ -- D
  [0xF0, 0x80, 0xF0, 0x80, 0xF0] ++ -- E
  [0xF0, 0x80, 0xF0, 0x80, 0x80]    -- F

end Sys2Proof.Machine
end

