-- ==== Sys2Proof/Machine/Ops.lean ====
section
/-!
DEFINITION. The named operations over memory, registers and the call stack, and taking a fatal error, the
machine's only exception entry (60_exceptions.md R174).
-/

namespace Sys2Proof.Machine

/-- What a step answers. -/
abbrev Answer := Host.Outcome State Fault Refusal

/-! ## Fatal errors -/

/-- The four fatal errors, with the address an OutOfBounds reports (60_exceptions.md R170, R171). -/
inductive FatalError where
  /-- An access to a byte at 4096 or above; `maddr` is that address (R172). -/
  | outOfBounds (maddr : Nat)
  /-- The fetched word matches no pattern (R173). -/
  | unknownOpcode
  /-- A return with an empty call stack (R176). -/
  | stackUnderflow
  /-- A call with sixteen return addresses held (R176). -/
  | stackOverflow
  deriving DecidableEq, Repr

/-- The error's code (R171). -/
def FatalError.code : FatalError → ErrorCode
  | .outOfBounds _ => .outOfBounds
  | .unknownOpcode => .unknownOpcode
  | .stackUnderflow => .stackUnderflow
  | .stackOverflow => .stackOverflow

/-- The address an error records: "present for OutOfBounds only" (R36). -/
def FatalError.maddr : FatalError → Option Nat
  | .outOfBounds a => some a
  | .unknownOpcode | .stackUnderflow | .stackOverflow => none

/-- The number the spec gives the error (R171). -/
def ErrorCode.number : ErrorCode → Nat
  | .outOfBounds => 1
  | .unknownOpcode => 2
  | .stackUnderflow => 3
  | .stackOverflow => 4

/-- The fault record of an error at the instruction address `ia` with the opcode `op` (R36, R171). -/
def FatalError.record (e : FatalError) (ia op : Option Word) : FaultRecord where
  code := e.code
  ia := ia
  op := op
  maddr := e.maddr

/-! ## Memory -/

/-- The byte at an address: the last value written, 0x00 if there is none (20_memory.md R56). -/
def Memory.read : Memory → Nat → Byte
  | [], _ => 0#8
  | (b, v) :: rest, a => if b = a then v else Memory.read rest a

/-- The memory after `mem[a] <- v`, every other cell unchanged (R54), in the canonical form: a cell holding 0x00,
what an unlisted address reads as, is not listed. -/
def Memory.write : Memory → Nat → Byte → Memory
  | [], a, v => if v = 0#8 then [] else [(a, v)]
  | (b, w) :: rest, a, v =>
    if a < b then
      if v = 0#8 then (b, w) :: rest else (a, v) :: (b, w) :: rest
    else if a = b then
      if v = 0#8 then rest else (a, v) :: rest
    else (b, w) :: Memory.write rest a v

/-- The canonical form from the address `lo` on: addresses strictly rising, below 4096, no cell 0x00. -/
def Memory.wfFrom (lo : Nat) : Memory → Bool
  | [] => true
  | (a, v) :: rest => decide (lo ≤ a) && decide (a < Config.memSize) && (v != 0#8) && Memory.wfFrom (a + 1) rest

/-- The canonical form of memory. -/
def Memory.wf (m : Memory) : Bool := Memory.wfFrom 0 m

/-- The canonical memory that reads as `m` does at every address below 4096. -/
def Memory.canonical (m : Memory) : Memory :=
  m.foldr (fun c acc => if c.1 < Config.memSize then Memory.write acc c.1 c.2 else acc) []

/-- `MemRead(a, 1)` (R52): every address is checked, and is an exact integer that never wraps (R51). -/
def memRead (m : Memory) (a : Nat) : Except FatalError Byte :=
  if a < Config.memSize then .ok (Memory.read m a) else .error (.outOfBounds a)

/-- `MemWrite(a, 1, v)` (R54). -/
def memWrite (m : Memory) (a : Nat) (v : Byte) : Except FatalError Memory :=
  if a < Config.memSize then .ok (Memory.write m a v) else .error (.outOfBounds a)

/-- `n` single-byte reads from `a` on, in ascending address order; the first address out of range is the error's
(R59, R136). -/
def readBytes (m : Memory) (a : Nat) : Nat → Except FatalError (List Byte)
  | 0 => .ok []
  | n + 1 =>
    match memRead m a with
    | .error e => .error e
    | .ok b =>
      match readBytes m (a + 1) n with
      | .error e => .error e
      | .ok bs => .ok (b :: bs)

/-- Single-byte writes of a sequence from `a` on, in ascending address order; the first address out of range is the
error's (R59, R136). -/
def writeBytes (m : Memory) (a : Nat) : List Byte → Except FatalError Memory
  | [] => .ok m
  | b :: bs =>
    match memWrite m a b with
    | .error e => .error e
    | .ok m' => writeBytes m' (a + 1) bs

/-- `write_block(a, bytes)`: the end of the block is checked before any byte, so a block that ends above memory fails,
an empty one too; else every byte is written (R55). The address reported is the first of the block that is 4096 or
more. Log 24. -/
def writeBlockBytes (m : Memory) (a : Nat) (bytes : List Byte) : Except FatalError Memory :=
  if Config.memSize < a + bytes.length then .error (.outOfBounds (max a Config.memSize)) else writeBytes m a bytes

/-- `MemRead(a, 2)`, "big-endian: high byte at `addr`, low byte at `addr+1`" (R53). -/
def memReadWord (m : Memory) (a : Nat) : Except FatalError Word :=
  match memRead m a with
  | .error e => .error e
  | .ok hi =>
    match memRead m (a + 1) with
    | .error e => .error e
    | .ok lo => .ok (wordOfBytes hi lo)

/-! ## Registers -/

/-- Register 0xF, the flag register VF (10_state.md R21). -/
@[simp] abbrev VF : Reg := 0xF#4

/-- `V[r]` (R12, R20). -/
def State.readV (s : State) (r : Reg) : Byte := s.v[r.toNat]'r.isLt

/-- `V[r] <- b`; no register is hardwired (R20). -/
def State.writeV (s : State) (r : Reg) (b : Byte) : State := { s with v := s.v.set r.toNat b r.isLt }

/-- All sixteen registers at once. -/
def State.setV (s : State) (v : Vector Byte 16) : State := { s with v := v }

/-- `I <- w` (R23). -/
def State.setI (s : State) (w : Word) : State := { s with I := w }

/-- `pc <- w` (R24). -/
def State.setPc (s : State) (w : Word) : State := { s with pc := w }

/-- `DT <- b` (R29). -/
def State.setDt (s : State) (b : Byte) : State := { s with dt := b }

/-- `ST <- b` (R30). -/
def State.setSt (s : State) (b : Byte) : State := { s with st := b }

/-- Memory after an instruction's or a load's writes. -/
def State.setMem (s : State) (m : Memory) : State := { s with mem := m }

/-- The Display after its own operations. -/
def State.setDisplay (s : State) (d : Display) : State := { s with display := d }

/-- The Keyboard after its own operations. -/
def State.setKb (s : State) (k : Keyboard) : State := { s with kb := k }

/-- One more free value drawn. -/
def State.countFree (s : State) : State := { s with free := s.free + 1 }

/-- The first step of the run has happened (R197). -/
def State.markStarted (s : State) : State := { s with started := true }

/-- The list of host operations still to come. -/
def State.setHostOps (s : State) (ops : List HostOp) : State := { s with hostOps := ops }

/-- "advance the program counter by 2 *before* executing" (R40). -/
def State.advancePc (s : State) : State := s.setPc (s.pc + 2)

/-- `pc <- pc - 2`, the rewind of FX0A (R25, R162). -/
def State.rewind (s : State) : State := s.setPc (s.pc - 2)

/-- A skip: `pc <- pc + 2` once more when the condition holds, nothing else (40_flow.md R108). -/
def State.skipIf (s : State) (c : Bool) : State := if c then s.setPc (s.pc + 2) else s

/-- Writes of consecutive registers from number `j` on. -/
def writeRegs (j : Nat) : List Byte → Vector Byte 16 → Vector Byte 16
  | [], v => v
  | b :: bs, v => writeRegs (j + 1) bs (v.setIfInBounds j b)

/-! ## The call stack -/

/-- Push a return address; sixteen are held, the seventeenth overflows (R28, R102). -/
def State.push (s : State) (ra : Word) : Except FatalError State :=
  if h : s.sp.val < 16 then
    .ok { s with stack := s.stack.set s.sp.val ra h, sp := ⟨s.sp.val + 1, Nat.succ_lt_succ h⟩ }
  else .error .stackOverflow

/-- Pop the top return address; the popped cell keeps its contents and is dead (R28, R100). -/
def State.pop (s : State) : Except FatalError (Word × State) :=
  if s.sp.val = 0 then .error .stackUnderflow
  else
    .ok (s.stack[s.sp.val - 1]'(Nat.lt_of_le_of_lt (Nat.sub_le_sub_right (Nat.le_of_lt_succ s.sp.isLt) 1) (by decide)),
      { s with sp := ⟨s.sp.val - 1, Nat.lt_of_le_of_lt (Nat.sub_le _ _) s.sp.isLt⟩ })

/-! ## Taking a fatal error -/

/-- The state after a fatal error: the fault record is written, "and the machine is dead"; every other element the
spec names is any value (R174, U6), a free value here, with its memory in canonical form. The model's own fields
go on. Log 4. -/
def deadState (r : FaultRecord) (s : State) : State :=
  { Config.stateAfterFault s.free with
    mem := Memory.canonical (Config.stateAfterFault s.free).mem
    fault := some r
    started := s.started
    free := s.free + 1
    hostOps := s.hostOps }

/-- Taking a fatal error, the machine's only exception entry: `fault <- Some(code, ia, op, maddr)`; no handler, no
vector, no mode (R174). There is no return from it: only `reset()` makes the machine run again (R175). -/
def takeFatal (e : FatalError) (ia op : Option Word) (s : State) : Answer :=
  .next (deadState (e.record ia op) s)

/-- The end of an instruction that can raise an error: its next state, or the error taken at this instruction's
address, which is pc - 2 during the execute phase (R24), with its opcode `op`. -/
def complete (op : Word) (s : State) : Except FatalError State → Answer
  | .ok t => .next t
  | .error e => takeFatal e (some (s.pc - 2)) (some op) s

/-! ## Fetch -/

/-- `op <- MemRead(pc, 2)` (R40). -/
def fetchWord (s : State) : Except FatalError Word := memReadWord s.mem s.pc.toNat

end Sys2Proof.Machine
end

