-- ==== Sys2Proof/Machine/Flags.lean ====
section
/-!
DEFINITION. Every flag computation of the spec (10_state.md R37; 41_alu.md R110, R111; 42_index_memory.md R131):
the exact integer result, its reduction, and the flag.
-/

namespace Sys2Proof.Machine

/-- A flag write stores the 8-bit value 0x00 or 0x01 (R37). -/
def flagByte (b : Bool) : Byte := if b then 0x01 else 0x00

/-- 8XY4: the sum modulo 256, and the carry, set when the exact sum exceeds 255 (R118). -/
def addCarry (a b : Byte) : Byte × Bool :=
  let s := a.toNat + b.toNat
  (BitVec.ofNat 8 s, decide (s > 255))

/-- 8XY5 and 8XY7: the difference modulo 256, and not-borrow, set when `a >= b` (R119, R121). -/
def subNotBorrow (a b : Byte) : Byte × Bool :=
  (BitVec.ofInt 8 ((a.toNat : Int) - (b.toNat : Int)), decide (a.toNat ≥ b.toNat))

/-- 8XY6: the value divided by 2, and bit 0 of the pre-shift value (R120). -/
def shiftRightLost (a : Byte) : Byte × Bool := (BitVec.ofNat 8 (a.toNat / 2), a.getLsbD 0)

/-- 8XYE: twice the value modulo 256, and bit 7 of the pre-shift value (R122). -/
def shiftLeftLost (a : Byte) : Byte × Bool := (BitVec.ofNat 8 (a.toNat * 2), a.getLsbD 7)

/-- FX1E: the sum modulo 65536, and whether the exact sum exceeds 0xFFF (R131, D9). -/
def addIndex (i : Word) (b : Byte) : Word × Bool :=
  let s := i.toNat + b.toNat
  (BitVec.ofNat 16 s, decide (s > 0x0FFF))

/-- FX1E: what VF holds after, by mode, from whether the sum exceeds 0xFFF and what VF held (R131). -/
def indexFlag (mode : Config.AddiFlagMode) (exceeds : Bool) (vf : Byte) : Byte :=
  match mode with
  | .none => vf
  | .setOnly => if exceeds then 0x01 else vf
  | .setClear => flagByte exceeds

/-- The 8-bit result to `V[x]`, then the flag to VF last, so that VF holds the flag when x = 0xF (R111, D6). -/
def State.writeResultFlag (s : State) (x : Reg) (r : Byte × Bool) : State :=
  (s.writeV x r.1).writeV VF (flagByte r.2)

end Sys2Proof.Machine
end

