-- ==== Sys2Proof/Machine/Operands.lean ====
section
/-!
DEFINITION. Every operand form of the spec: fields widened by zero extension (30_encoding.md R73), the shift source
(41_alu.md R123), the address through I (20_memory.md R67), sprite coordinates, the glyph address, decimal digits,
keys.
-/

namespace Sys2Proof.Machine

/-- `zext_16(nnn)`, a jump or call target and the operand of ANNN (R73, R107). -/
def target (nnn : Addr) : Word := nnn.setWidth 16

/-- The effective address of element `j`: the exact integer `I + j` (R51, R136). -/
def effAddr (s : State) (j : Nat) : Nat := s.I.toNat + j

/-- The value 8XY6 and 8XYE shift: `V[x]` or `V[y]` as `SHIFT_SRC` says (R123). -/
def shiftOperand (src : Config.ShiftSrc) (x y : Reg) (s : State) : Byte :=
  match src with
  | .x => s.readV x
  | .y => s.readV y

/-- The sprite's start column, `V[x] mod 64` (43_display.md R142). -/
def startCol (b : Byte) : Nat := b.toNat % Config.displayW

/-- The sprite's start row, `V[y] mod 32` (R142). -/
def startRow (b : Byte) : Nat := b.toNat % Config.displayH

/-- `FONT_BASE + GLYPH_BYTES * V[x]` over the whole 8-bit value (42_index_memory.md R132, D10). -/
def glyphAddr (b : Byte) : Word := BitVec.ofNat 16 (Config.fontBase + Config.glyphBytes * b.toNat)

/-- Hundreds, tens and ones of an 8-bit value (R133). -/
def bcdDigits (b : Byte) : List Byte :=
  [BitVec.ofNat 8 (b.toNat / 100), BitVec.ofNat 8 (b.toNat / 10 % 10), BitVec.ofNat 8 (b.toNat % 10)]

/-- `V[0]` to `V[x]`, x being a register number (R134). -/
def regsThrough (s : State) (x : Reg) : List Byte := s.v.toList.take (x.toNat + 1)

/-- `zext_8(k)`, a key number as a register value (44_keys_timers.md R162). -/
def keyByte (k : Key) : Byte := k.setWidth 8

/-- `is_key_pressed(v)`: "true iff currently-down key equals k", all 8 bits compared (R160, D17; 60_exceptions.md
R200). -/
def isKeyPressed (kb : Keyboard) (v : Byte) : Bool :=
  match kb.down with
  | some k => decide (keyByte k = v)
  | none => false

end Sys2Proof.Machine
end

