-- ==== Sys2Proof/Machine/Alu.lean ====
section
/-!
DEFINITION. Register load, arithmetic, logic, shift and random instructions (41_alu.md). None writes pc, none can
fault (R110).
-/

namespace Sys2Proof.Machine

/-- 6XNN `LD Vx, kk` (R112). -/
def execLdImm (x : Reg) (kk : Byte) (s : State) : Answer := .next (s.writeV x kk)

/-- 7XNN `ADD Vx, kk`: wraps, sets no flag (R113). -/
def execAddImm (x : Reg) (kk : Byte) (s : State) : Answer :=
  .next (s.writeV x (BitVec.ofNat 8 ((s.readV x).toNat + kk.toNat)))

/-- 8XY0 `LD Vx, Vy` (R114). -/
def execLdReg (x y : Reg) (s : State) : Answer := .next (s.writeV x (s.readV y))

/-- 8XY1 `OR Vx, Vy`: VF is not written (R115, D7). -/
def execOrReg (x y : Reg) (s : State) : Answer := .next (s.writeV x (s.readV x ||| s.readV y))

/-- 8XY2 `AND Vx, Vy`: VF is not written (R116, D7). -/
def execAndReg (x y : Reg) (s : State) : Answer := .next (s.writeV x (s.readV x &&& s.readV y))

/-- 8XY3 `XOR Vx, Vy`: VF is not written (R117, D7). -/
def execXorReg (x y : Reg) (s : State) : Answer := .next (s.writeV x (s.readV x ^^^ s.readV y))

/-- 8XY4 `ADD Vx, Vy` (R118). -/
def execAddReg (x y : Reg) (s : State) : Answer :=
  .next (s.writeResultFlag x (addCarry (s.readV x) (s.readV y)))

/-- 8XY5 `SUB Vx, Vy`: Vx minus Vy (R119). -/
def execSubReg (x y : Reg) (s : State) : Answer :=
  .next (s.writeResultFlag x (subNotBorrow (s.readV x) (s.readV y)))

/-- 8XY6 `SHR Vx, Vy` (R120). -/
def execShr (x y : Reg) (s : State) : Answer :=
  .next (s.writeResultFlag x (shiftRightLost (shiftOperand shiftSrc x y s)))

/-- 8XY7 `SUBN Vx, Vy`: Vy minus Vx (R121). -/
def execSubn (x y : Reg) (s : State) : Answer :=
  .next (s.writeResultFlag x (subNotBorrow (s.readV y) (s.readV x)))

/-- 8XYE `SHL Vx, Vy` (R122). -/
def execShl (x y : Reg) (s : State) : Answer :=
  .next (s.writeResultFlag x (shiftLeftLost (shiftOperand shiftSrc x y s)))

/-- CXNN `RND Vx, kk`: `rand8` is a free value, drawn afresh each time (R124, D22). Log 5. -/
def execRnd (x : Reg) (kk : Byte) (s : State) : Answer :=
  .next (s.countFree.writeV x (Config.rand8 s.free &&& kk))

end Sys2Proof.Machine
end

