-- ==== Sys2Proof/Machine/Draw.lean ====
section
/-!
DEFINITION. The Display's own operations and the two display instructions (43_display.md).
-/

namespace Sys2Proof.Machine

/-- `px(x, y)`, x in 0..63, y in 0..31 (10_state.md R31). -/
def getPx (g : Grid) (x y : Nat) : Bool := if h : y < 32 ∧ x < 64 then (g[y]'h.1)[x]'h.2 else false

/-- `px(x, y) <- b`. -/
def setPx (g : Grid) (x y : Nat) (b : Bool) : Grid :=
  if h : y < 32 ∧ x < 64 then g.set y ((g[y]'h.1).set x b h.2) h.1 else g

/-- `clear()`: "zeroes the grid and marks dirty"; `collision` is not touched (R151, D15). -/
def Display.clear (d : Display) : Display := { d with px := Vector.replicate 32 (Vector.replicate 64 false), dirty := true }

/-- `begin_draw()`: `collision <- 0` (R144). -/
def Display.beginDraw (d : Display) : Display := { d with collision := false }

/-- `dirty <- 1` (R149). -/
def Display.markDirty (d : Display) : Display := { d with dirty := true }

/-- Bit `i` from the left of a sprite row: bit `7 - i` of the byte (R145, D13). -/
def spriteBit (b : Byte) (i : Nat) : Bool := b.getLsbD (7 - i)

/-- One bit of `blit_row`: clipped at column 64 (R146); a 1 inverts its cell, and collides when the cell was 1
(R145). -/
def Display.blitBit (x0 y0 : Nat) (b : Byte) (d : Display) (i : Nat) : Display :=
  if x0 + i < Config.displayW ∧ spriteBit b i = true then
    { d with
      px := setPx d.px (x0 + i) y0 (!getPx d.px (x0 + i) y0)
      collision := d.collision || getPx d.px (x0 + i) y0 }
  else d

/-- `blit_row(x0, y0, b)`: the eight bits from left to right (R145). -/
def Display.blitRow (x0 y0 : Nat) (b : Byte) (d : Display) : Display :=
  (List.range 8).foldl (Display.blitBit x0 y0 b) d

/-- Sprite row `r` of a draw at `(cx, cy)`: a display row of 32 or more is dropped, or wrapped when `vwrap`
(R141, R147). -/
def Display.drawRow (vwrap : Bool) (cx cy r : Nat) (b : Byte) (d : Display) : Display :=
  if Config.displayH ≤ cy + r then
    if vwrap then d.blitRow cx ((cy + r) % Config.displayH) b else d
  else d.blitRow cx (cy + r) b

/-- The sprite's rows from number `r` on, top to bottom (R141). -/
def drawRows (vwrap : Bool) (cx cy : Nat) : Nat → List Byte → Display → Display
  | _, [], d => d
  | r, b :: bs, d => drawRows vwrap cx cy (r + 1) bs (d.drawRow vwrap cx cy r b)

/-- 00E0 `CLS` (R140). -/
def execCls (s : State) : Answer := .next (s.setDisplay s.display.clear)

/-- DXYN `DRW Vx, Vy, n` (R141): the coordinates are read before VF is cleared (R143); every row's byte is read,
clipped or not, and a byte out of range ends the step; the last register write is `VF <- collision` (R148), which
covers the clearing of VF at the start; dirty is marked always (R149). -/
def execDrw (x y : Reg) (n : Nibble) (s : State) : Answer :=
  complete (encode (.drw x y n)) s
    ((readBytes s.mem (effAddr s 0) n.toNat).map fun rows =>
      let d := drawRows drawVwrap (startCol (s.readV x)) (startRow (s.readV y)) 0 rows s.display.beginDraw
      (s.setDisplay d.markDirty).writeV VF (flagByte d.collision))

end Sys2Proof.Machine
end

