-- ==== Sys2Proof/Machine/Flow.lean ====
section
/-!
DEFINITION. Control-transfer instructions (40_flow.md). During execution pc is already the address of the
instruction plus 2 (R24).
-/

namespace Sys2Proof.Machine

/-- 00EE `RET` (R100). -/
def execRet (s : State) : Answer :=
  complete (encode .ret) s (s.pop.map fun p => p.2.setPc p.1)

/-- 1NNN `JP nnn` (R101). -/
def execJp (nnn : Addr) (s : State) : Answer := .next (s.setPc (target nnn))

/-- 2NNN `CALL nnn`: the advanced pc is pushed (R102, D21). -/
def execCall (nnn : Addr) (s : State) : Answer :=
  complete (encode (.call nnn)) s ((s.push s.pc).map fun t => t.setPc (target nnn))

/-- 3XNN `SE Vx, kk` (R103). -/
def execSeImm (x : Reg) (kk : Byte) (s : State) : Answer := .next (s.skipIf (s.readV x == kk))

/-- 4XNN `SNE Vx, kk` (R104). -/
def execSneImm (x : Reg) (kk : Byte) (s : State) : Answer := .next (s.skipIf (s.readV x != kk))

/-- 5XY_ `SE Vx, Vy` (R105). -/
def execSeReg (x y : Reg) (s : State) : Answer := .next (s.skipIf (s.readV x == s.readV y))

/-- 9XY_ `SNE Vx, Vy` (R106). -/
def execSneReg (x y : Reg) (s : State) : Answer := .next (s.skipIf (s.readV x != s.readV y))

end Sys2Proof.Machine
end

