-- ==== Sys2Proof/Machine/IndexMemory.lean ====
section
/-!
DEFINITION. Index-register and memory instructions (42_index_memory.md). No load or store modifies I (R136).
-/

namespace Sys2Proof.Machine

/-- ANNN `LD I, nnn` (R130). -/
def execLdI (nnn : Addr) (s : State) : Answer := .next (s.setI (target nnn))

/-- FX1E `ADD I, Vx`: `V[x]` is read before VF is written; VF as `ADDI_FLAG_MODE` says (R131). Log 6. -/
def execAddI (x : Reg) (s : State) : Answer :=
  let r := addIndex s.I (s.readV x)
  .next ((s.setI r.1).writeV VF (indexFlag addiFlagMode r.2 (s.readV VF)))

/-- FX29 `LD F, Vx`: an address only, memory is not accessed (R132). -/
def execLdF (x : Reg) (s : State) : Answer := .next (s.setI (glyphAddr (s.readV x)))

/-- FX33 `LD B, Vx` (R133). -/
def execLdB (x : Reg) (s : State) : Answer :=
  complete (encode (.ldB x)) s ((writeBytes s.mem (effAddr s 0) (bcdDigits (s.readV x))).map s.setMem)

/-- FX55 `LD [I], Vx` (R134). -/
def execStoreRegs (x : Reg) (s : State) : Answer :=
  complete (encode (.storeRegs x)) s ((writeBytes s.mem (effAddr s 0) (regsThrough s x)).map s.setMem)

/-- FX65 `LD Vx, [I]` (R135). -/
def execLoadRegs (x : Reg) (s : State) : Answer :=
  complete (encode (.loadRegs x)) s
    ((readBytes s.mem (effAddr s 0) (x.toNat + 1)).map fun bs => s.setV (writeRegs 0 bs s.v))

end Sys2Proof.Machine
end

