-- ==== Sys2Proof/Machine/KeysTimers.lean ====
section
/-!
DEFINITION. Keyboard and timer instructions (44_keys_timers.md). None changes the keyboard.
-/

namespace Sys2Proof.Machine

/-- EX9E `SKP Vx` (R160). -/
def execSkp (x : Reg) (s : State) : Answer := .next (s.skipIf (isKeyPressed s.kb (s.readV x)))

/-- EXA1 `SKNP Vx` (R161). -/
def execSknp (x : Reg) (s : State) : Answer := .next (s.skipIf (!isKeyPressed s.kb (s.readV x)))

/-- FX0A `LD Vx, K` (R162): with no release signal pc is rewound and nothing else changes; with one the released
key goes to `V[x]` and the signal stays (D18). A signal with no released key has no meaning (D36): refused, log 14. -/
def execLdVxK (x : Reg) (s : State) : Answer :=
  match s.kb.signal, s.kb.last with
  | true, some k => .next (s.writeV x (keyByte k))
  | true, none => .refused .keySignalWithoutKey
  | false, _ => .next s.rewind

/-- FX07 `LD Vx, DT` (R163). -/
def execLdVxDt (x : Reg) (s : State) : Answer := .next (s.writeV x s.dt)

/-- FX15 `LD DT, Vx` (R164). -/
def execLdDtVx (x : Reg) (s : State) : Answer := .next (s.setDt (s.readV x))

/-- FX18 `LD ST, Vx` (R165). -/
def execLdStVx (x : Reg) (s : State) : Answer := .next (s.setSt (s.readV x))

end Sys2Proof.Machine
end

