-- ==== Sys2Proof/Machine/HostOps.lean ====
section
/-!
DEFINITION. The host operations, the block's whole interface (60_exceptions.md R190 to R203; 70_reset_and_hazards.md
R210 to R213): the transitions, the queries and the outputs.
-/

namespace Sys2Proof.Machine

/-! ## Transitions -/

/-- One timer in a tick: decremented, "floored at 0" (R191). -/
def tickByte (b : Byte) : Byte := if b = 0 then 0 else b - 1

/-- `tick_timers()`: both timers, nothing else (R191, R203). -/
def tickTimers (s : State) : State := (s.setDt (tickByte s.dt)).setSt (tickByte s.st)

/-- `key_down(k)`: "last-key-wins"; last and signal are unchanged (R192). -/
def Keyboard.keyDown (kb : Keyboard) (k : Key) : Keyboard := { kb with down := some k }

/-- `key_up()`: the key that is down becomes the last released and the signal is set; with no key down nothing
changes (R193, D16). -/
def Keyboard.keyUp (kb : Keyboard) : Keyboard :=
  match kb.down with
  | some k => { down := none, last := some k, signal := true }
  | none => kb

/-- `clear_signals()`: "clears only the one-shot signal" (R194). -/
def Keyboard.clearSignals (kb : Keyboard) : Keyboard := { kb with signal := false }

/-- `consume_dirty()`: the dirty flag, and the state with it cleared (R198, D29). -/
def consumeDirty (s : State) : Bool × State := (s.display.dirty, s.setDisplay { s.display with dirty := false })

/-- `write_block(a, bytes)` by the host: a failure is the fatal error OutOfBounds, whose record has no ia and no op
(20_memory.md R55; R196, R201). -/
def writeBlock (a : Nat) (bytes : List Byte) (s : State) : Answer :=
  match writeBlockBytes s.mem a bytes with
  | .ok m => .next (s.setMem m)
  | .error e => takeFatal e none none s

/-- `load_font()` (R195). -/
def loadFont (s : State) : Answer := writeBlock Config.fontBase fontTable s

/-- `load_program(bytes)` (R196). -/
def loadProgram (bytes : List Byte) (s : State) : Answer := writeBlock Config.progStart bytes s

/-- Loads happen "after reset and before the first `step()`"; a later load has no transition (R197, D28). Log 13. -/
def atBoot (s : State) (load : State → Answer) : Answer :=
  if s.started then .refused .loadAfterFirstStep else load s

/-- `reset()`: "a reset is a fresh machine and nothing survives it" (R210) but the model's own fields: the free
values go on being fresh and the host's list goes on. Log 16. -/
def resetMachine (s : State) : State := { State.reset with free := s.free, hostOps := s.hostOps }

/-- A host operation other than `step()` and `reset()` has no specified effect after a fatal error (R175, U21).
Log 13. -/
def ifRunning (s : State) (op : State → Answer) : Answer :=
  if s.fault.isSome then .refused .hostOpAfterFault else op s

/-- One host operation; `cpuStep` is the CPU's `step()` (R190). -/
def runHostOp (cpuStep : State → Answer) (op : HostOp) (s : State) : Answer :=
  match op with
  | .step => cpuStep s
  | .reset => .next (resetMachine s)
  | .loadFont => ifRunning s fun s => atBoot s loadFont
  | .loadProgram bytes => ifRunning s fun s => atBoot s (loadProgram bytes)
  | .tickTimers => ifRunning s fun s => .next (tickTimers s)
  | .keyDown k => ifRunning s fun s => .next (s.setKb (s.kb.keyDown k))
  | .keyUp => ifRunning s fun s => .next (s.setKb s.kb.keyUp)
  | .clearSignals => ifRunning s fun s => .next (s.setKb s.kb.clearSignals)
  | .consumeDirty => ifRunning s fun s => .next (consumeDirty s).2

/-! ## Queries and outputs: none changes the state (R190, R198, R200) -/

/-- `has_signal_keypress()`: "true iff a release happened since last clear" (R200). -/
def hasSignalKeypress (s : State) : Bool := s.kb.signal

/-- `key_last_released()` (R200). -/
def keyLastReleased (s : State) : Option Key := s.kb.last

/-- `is_dirty()` (R198). -/
def isDirty (s : State) : Bool := s.display.dirty

/-- `snapshot()`: 2048 cells in row-major order, bit `y * 64 + x` is `px(x, y)` (R198, D30). -/
def snapshot (s : State) : Vector Bool 2048 := Vector.ofFn fun i => getPx s.display.px (i.val % 64) (i.val / 64)

/-- The output `sound_active`, 1 exactly when ST is not 0 (10_state.md R30, D23). -/
def soundActive (s : State) : Bool := s.st != 0

/-! ## Orders of operations the spec describes -/

/-- The boot of a program: reset, then the host's two loads still to come, then the CPU's steps (R211 to R213). -/
def State.boot (program : List Byte) : State :=
  { State.reset with hostOps := [.loadFont, .loadProgram program] }

/-- One cycle of the host: `clear_signals()`, then the key events, then `step()` (R199). The block does not enforce
it (D37). -/
def hostCycle (events : List HostOp) : List HostOp := .clearSignals :: (events ++ [.step])

end Sys2Proof.Machine
end

