-- ==== Sys2Proof/Machine/Step.lean ====
section
/-!
DEFINITION. One step of the machine: the CPU's `step()` (10_state.md R40), or the next operation of the host when
one stands in `State.hostOps`.
-/

namespace Sys2Proof.Machine

/-- `step()`: "executes exactly one cycle". With a fault it does nothing (R175). Otherwise fetch, advance pc by 2,
decode, execute; the fetch's error is taken first, then the decoder's, then the instruction's (R40, R177). -/
def cpuStep (s : State) : Answer :=
  match s.fault with
  | some _ => .next s
  | none =>
    match fetchWord s.markStarted with
    | .error e => takeFatal e (some s.pc) none s.markStarted
    | .ok op =>
      match decodeWord op with
      | .error _ => takeFatal .unknownOpcode (some s.pc) (some op) s.markStarted
      | .ok i => exec i s.markStarted.advancePc

/-- One step: the oldest host operation still to come, else the CPU's. Log 11. -/
def step (s : State) : Host.Outcome State Fault Refusal :=
  match s.hostOps with
  | [] => cpuStep s
  | op :: rest => runHostOp cpuStep op (s.setHostOps rest)

/-- Where the next instruction is placed: at pc, if a word can be fetched there, else at the program start. -/
def fetchSite (pc : Word) : Word := if pc.toNat + 1 < Config.memSize then pc else BitVec.ofNat 16 Config.progStart

/-- `s` with the opcode of the table's bits `w` stored where `step` fetches its next instruction, no fault and no
host operation before it, so that the next step runs it. Log 15. -/
def State.withFetchWord (s : State) (nbits w : Nat) : State :=
  let at0 := (fetchSite s.pc).toNat
  let op := tableWord nbits w
  { s with
    pc := fetchSite s.pc
    mem := Memory.write (Memory.write s.mem at0 (op.extractLsb' 8 8)) (at0 + 1) (op.extractLsb' 0 8)
    fault := none
    hostOps := [] }

end Sys2Proof.Machine
end

