-- ==== Sys2Proof/Safety.lean ====
section
/-!
DEFINITION. The terms claims are stated in: a running machine, the invariants of a run, what a frame says, the
opcode at pc.
-/

namespace Sys2Proof.Machine

/-- The machine runs: no fatal error has happened (10_state.md R36, C2). -/
abbrev Running (s : State) : Prop := s.fault = none

/-- A safe step: it answers a next state and raises no fatal error. -/
def StepsSafely (s : State) : Prop := ∃ t, step s = .next t ∧ Running t

/-- Memory has its canonical form. -/
abbrev MemCanonical (s : State) : Prop := Memory.wf s.mem = true

/-- "whenever `kb.signal` is 1, `kb.last` is `Some(k)` for some k" (R35). -/
abbrev KeySignalHasKey (s : State) : Prop := s.kb.signal = true → s.kb.last.isSome = true

/-- "every value pc takes is in 0 to 0x1002" (R26). -/
abbrev PcInRange (s : State) : Prop := s.pc.toNat ≤ 0x1002

/-- Every live cell of the call stack holds an address a call pushes, "in 2 to 0x1000" (40_flow.md R100). -/
def StackHoldsReturns (s : State) : Prop :=
  ∀ (j : Nat) (h : j < 16), j < s.sp.val → 2 ≤ (s.stack[j]).toNat ∧ (s.stack[j]).toNat ≤ 0x1000

/-- What holds of a running machine in every run. After a fatal error nothing is claimed (60_exceptions.md R174). -/
def RunningInv (s : State) : Prop :=
  Running s → KeySignalHasKey s ∧ PcInRange s ∧ StackHoldsReturns s

/-- The two bytes at pc, big-endian: the opcode the next step fetches (R40, R57). -/
def opcodeAtPc (s : State) : Word := Memory.read s.mem s.pc.toNat ++ Memory.read s.mem (s.pc.toNat + 1)

/-- From `s` to `t` only the general registers change, and in `t` they hold `f`. -/
def RegsBecome (s t : State) (f : Reg → Byte) : Prop := t = { s with v := t.v } ∧ ∀ r, t.readV r = f r

/-- From `s` to `t` only memory changes, and in it only the `len` bytes from `a` on. -/
def OnlyMemChanges (s t : State) (a len : Nat) : Prop :=
  t = { s with mem := t.mem } ∧ ∀ c, c < a ∨ a + len ≤ c → Memory.read t.mem c = Memory.read s.mem c

/-- The step or operation answers a next state whose fault record is `r` (R174). -/
def FaultsWith (o : Answer) (r : FaultRecord) : Prop := ∃ t, o = .next t ∧ t.fault = some r

end Sys2Proof.Machine
end

