-- ==== Sys2Proof/Certificates/Slice0/Obligations.lean ====
section
/-!
DEFINITION. The statements for the provers. Each docstring names the rule or section of spec/ it formalises, and,
where a clause rests on a decision of the spec (D<n>) or of the model (log <n>), says so.
-/

open Sys2Proof Sys2Proof.Machine

/-! ## Encoding -/

/-- 30_encoding.md sections 1 to 3: decoding the encoding of a well-formed instruction gives it back, with every
operand at every value, and from bytes leaves the bytes after it. The bit patterns are the spec's decision D1. -/
def Obligations.DecodeOfEncodeIsIdentity : Prop :=
  ∀ (i : Instr) (rest : List Byte), i.wellFormed = true →
    decodeWord (encode i) = .ok i ∧ decode (bytesOfWord (encode i) ++ rest) = .ok (i, rest)

/-- 30_encoding.md sections 2 and 3: a word that decodes is the encoding of what it decodes to, but for the low
nibble of families 0x5 and 0x9, which is ignored and encoded as 0 (decision D4). -/
def Obligations.EncodeOfDecodeIsCanonicalWord : Prop :=
  ∀ (w : Word) (i : Instr), decodeWord w = .ok i →
    (encode i).toNat =
      if w.toNat / 4096 = 5 ∨ w.toNat / 4096 = 9 then w.toNat / 16 * 16 else w.toNat

/-- 30_encoding.md section 4: the words refused as unknown are exactly the classes (a) to (e) the spec derives by
counting; every other word decodes. Decisions D1 to D4. -/
def Obligations.UnknownWordsAreExactlyListed : Prop :=
  ∀ w : Word,
    (decodeWord w = .error (.unknownOpcode w) ↔
      (w.toNat / 4096 = 0x0 ∧ w.toNat ≠ 0x00E0 ∧ w.toNat ≠ 0x00EE) ∨
      (w.toNat / 4096 = 0x8 ∧ w.toNat % 16 ∈ [0x8, 0x9, 0xA, 0xB, 0xC, 0xD, 0xF]) ∨
      (w.toNat / 4096 = 0xB) ∨
      (w.toNat / 4096 = 0xE ∧ w.toNat % 256 ∉ [0x9E, 0xA1]) ∨
      (w.toNat / 4096 = 0xF ∧
        w.toNat % 256 ∉ [0x07, 0x0A, 0x15, 0x18, 0x1E, 0x29, 0x33, 0x55, 0x65])) ∧
    (decodeWord w ≠ .error (.unknownOpcode w) → ∃ i, decodeWord w = .ok i)

/-- 30_encoding.md section 3 and 95_test_vectors.md S1: the source's three decoded words, and one word of each other
family of the table (95 E2 to E17; patterns by decision D1). -/
def Obligations.SampleWordsDecode : Prop :=
  decodeWord 0xD123 = .ok (.drw 1 2 3) ∧ decodeWord 0x1ABC = .ok (.jp 0xABC) ∧ decodeWord 0x00E0 = .ok .cls ∧
  decodeWord 0x2ABC = .ok (.call 0xABC) ∧ decodeWord 0x3A7F = .ok (.seImm 0xA 0x7F) ∧
  decodeWord 0x5127 = .ok (.seReg 1 2) ∧ decodeWord 0x7B42 = .ok (.addImm 0xB 0x42) ∧
  decodeWord 0x8AB5 = .ok (.subReg 0xA 0xB) ∧ decodeWord 0xA123 = .ok (.ldI 0x123) ∧
  decodeWord 0xE4A1 = .ok (.sknp 4) ∧ decodeWord 0xF533 = .ok (.ldB 5)

/-! ## The step -/

/-- 10_state.md section 10: with no host operation to come (log 11) and no fault, a step fetches the big-endian word
at pc, advances pc by 2 and executes what it decodes to; `started` notes the first step (log 12). A fetch out of
memory and a word that decodes to nothing take their fatal error, with the record of decision D25; with a fault
`step()` does nothing. -/
def Obligations.StepRunsDecodedInstruction : Prop :=
  ∀ s : State, s.hostOps = [] →
    (Running s → s.pc.toNat + 1 < 4096 → ∀ i, decodeWord (opcodeAtPc s) = .ok i →
      step s = exec i { s with pc := s.pc + 2, started := true }) ∧
    (Running s → s.pc.toNat + 1 < 4096 → (∀ i, decodeWord (opcodeAtPc s) ≠ .ok i) →
      FaultsWith (step s) ⟨.unknownOpcode, some s.pc, some (opcodeAtPc s), none⟩) ∧
    (Running s → 4096 ≤ s.pc.toNat + 1 →
      FaultsWith (step s) ⟨.outOfBounds, some s.pc, none, some (max s.pc.toNat 4096)⟩) ∧
    (¬ Running s → step s = .next s)

/-- 60_exceptions.md sections 1 and 2 (and C2 of 90_conflicts.md): no program stops the CPU without an answer: from
every state, dead or running, a step with no host operation to come answers a next state. The premise, part of the
invariant every step keeps, rules out the state decision D36 gives no meaning (log 14). -/
def Obligations.EveryCpuStepAnswersNextState : Prop :=
  ∀ s : State, s.hostOps = [] → (Running s → KeySignalHasKey s) → ∃ t, step s = .next t

/-- 44_keys_timers.md section 2 (b): "The state after a rewinding step equals the state before it": FX0A at pc with
no release signal, in a run whose first step is past (`started` is the model's, log 12; log 11). -/
def Obligations.WaitingStepLeavesStateAsItWas : Prop :=
  ∀ (s : State) (x : Reg), s.hostOps = [] → Running s → s.started = true → s.pc.toNat + 1 < 4096 →
    opcodeAtPc s = 0xF#4 ++ x ++ 0x0A#8 → s.kb.signal = false → step s = .next s

/-! ## Register load, arithmetic, logic, shift, random (41_alu.md) -/

/-- R112. -/
def Obligations.LoadImmediateSetsRegister : Prop :=
  ∀ (x : Reg) (kk : Byte) (s : State),
    decodeWord (0x6#4 ++ x ++ kk) = .ok (.ldImm x kk) ∧
    ∃ t, exec (.ldImm x kk) s = .next t ∧ RegsBecome s t fun r => if r = x then kk else s.readV r

/-- R113: wraps modulo 256; VF changes only as the destination. -/
def Obligations.AddImmediateWrapsWithoutFlag : Prop :=
  ∀ (x : Reg) (kk : Byte) (s : State),
    decodeWord (0x7#4 ++ x ++ kk) = .ok (.addImm x kk) ∧
    ∃ t, exec (.addImm x kk) s = .next t ∧
      (t.readV x).toNat = ((s.readV x).toNat + kk.toNat) % 256 ∧
      RegsBecome s t fun r => if r = x then t.readV x else s.readV r

/-- R114. -/
def Obligations.CopyMovesRegister : Prop :=
  ∀ (x y : Reg) (s : State),
    decodeWord (0x8#4 ++ x ++ y ++ 0x0#4) = .ok (.ldReg x y) ∧
    ∃ t, exec (.ldReg x y) s = .next t ∧ RegsBecome s t fun r => if r = x then s.readV y else s.readV r

/-- 41_alu.md section 5: OR, AND and XOR bit by bit into `V[x]`; VF is not written (decision D7). -/
def Obligations.LogicIsBitwiseAndLeavesFlag : Prop :=
  ∀ (x y : Reg) (s : State),
    (∃ t, exec (.orReg x y) s = .next t ∧
      (∀ i, (t.readV x).getLsbD i = ((s.readV x).getLsbD i || (s.readV y).getLsbD i)) ∧
      RegsBecome s t fun r => if r = x then t.readV x else s.readV r) ∧
    (∃ t, exec (.andReg x y) s = .next t ∧
      (∀ i, (t.readV x).getLsbD i = ((s.readV x).getLsbD i && (s.readV y).getLsbD i)) ∧
      RegsBecome s t fun r => if r = x then t.readV x else s.readV r) ∧
    (∃ t, exec (.xorReg x y) s = .next t ∧
      (∀ i, (t.readV x).getLsbD i = ((s.readV x).getLsbD i ^^ (s.readV y).getLsbD i)) ∧
      RegsBecome s t fun r => if r = x then t.readV x else s.readV r)

/-- 41_alu.md section 6: the sum modulo 256 in `V[x]`, the carry in VF, which holds the flag when x = 0xF (the order
is decision D6). -/
def Obligations.AddSetsCarry : Prop :=
  ∀ (x y : Reg) (s : State), ∃ t, exec (.addReg x y) s = .next t ∧
    (x ≠ 0xF → (t.readV x).toNat = ((s.readV x).toNat + (s.readV y).toNat) % 256) ∧
    RegsBecome s t fun r =>
      if r = 0xF then (if 255 < (s.readV x).toNat + (s.readV y).toNat then 0x01 else 0x00)
      else if r = x then t.readV x else s.readV r

/-- 41_alu.md section 7: the differences modulo 256 in both operand orders, VF = 1 when no borrow occurs (C7); VF
holds the flag when x = 0xF (decision D6); which order has which discriminant is general knowledge (G5). -/
def Obligations.SubtractSetsNotBorrow : Prop :=
  ∀ (x y : Reg) (s : State),
    (∃ t, exec (.subReg x y) s = .next t ∧
      (x ≠ 0xF → (t.readV x).toNat = ((s.readV x).toNat + 256 - (s.readV y).toNat) % 256) ∧
      RegsBecome s t fun r =>
        if r = 0xF then (if (s.readV y).toNat ≤ (s.readV x).toNat then 0x01 else 0x00)
        else if r = x then t.readV x else s.readV r) ∧
    (∃ t, exec (.subn x y) s = .next t ∧
      (x ≠ 0xF → (t.readV x).toNat = ((s.readV y).toNat + 256 - (s.readV x).toNat) % 256) ∧
      RegsBecome s t fun r =>
        if r = 0xF then (if (s.readV x).toNat ≤ (s.readV y).toNat then 0x01 else 0x00)
        else if r = x then t.readV x else s.readV r)

/-- 41_alu.md section 8: one bit position, the lost bit in VF, the source as `SHIFT_SRC` says (decision D5, log 7);
VF holds the flag when x = 0xF (decision D6). -/
def Obligations.ShiftsMoveOneBitAndKeepLostBit : Prop :=
  ∀ (x y : Reg) (s : State) (src : Byte), src = (if shiftSrc = .x then s.readV x else s.readV y) →
    (∃ t, exec (.shr x y) s = .next t ∧ (x ≠ 0xF → (t.readV x).toNat = src.toNat / 2) ∧
      RegsBecome s t fun r =>
        if r = 0xF then (if src.toNat % 2 = 1 then 0x01 else 0x00) else if r = x then t.readV x else s.readV r) ∧
    (∃ t, exec (.shl x y) s = .next t ∧ (x ≠ 0xF → (t.readV x).toNat = src.toNat * 2 % 256) ∧
      RegsBecome s t fun r =>
        if r = 0xF then (if 128 ≤ src.toNat then 0x01 else 0x00) else if r = x then t.readV x else s.readV r)

/-- 41_alu.md section 9: the draw AND the mask; the draw is a free value, one more counted (decision D22, log 5). -/
def Obligations.RandomIsMaskedDraw : Prop :=
  ∀ (x : Reg) (kk : Byte) (s : State), ∃ t, exec (.rnd x kk) s = .next t ∧
    t = { s with v := t.v, free := s.free + 1 } ∧
    (∀ i, (t.readV x).getLsbD i = ((Config.rand8 s.free).getLsbD i && kk.getLsbD i)) ∧
    (kk = 0 → t.readV x = 0) ∧
    ∀ r, r ≠ x → t.readV r = s.readV r

/-! ## Control transfer (40_flow.md) -/

/-- R101: the target is absolute, the 12-bit field zero-extended; nothing else changes. -/
def Obligations.JumpGoesToAbsoluteTarget : Prop :=
  ∀ (nnn : Addr) (s : State),
    decodeWord (0x1#4 ++ nnn) = .ok (.jp nnn) ∧
    ∃ t, exec (.jp nnn) s = .next t ∧ t.pc.toNat = nnn.toNat ∧ t = { s with pc := t.pc }

/-- 40_flow.md section 4: below sixteen return addresses a call pushes the advanced pc and jumps (decisions D20,
D21); the live cells below the new top, and every other element, are unchanged. That the cells above the new top, which
are dead ("any value", U8), keep their contents too is the model's choice (log 2). -/
def Obligations.CallPushesReturnAddress : Prop :=
  ∀ (nnn : Addr) (s : State), s.sp.val < 16 →
    ∃ t, exec (.call nnn) s = .next t ∧ t.pc.toNat = nnn.toNat ∧ t.sp.val = s.sp.val + 1 ∧
      (∀ (j : Nat) (h : j < 16), t.stack[j] = if j = s.sp.val then s.pc else s.stack[j]) ∧
      t = { s with pc := t.pc, sp := t.sp, stack := t.stack }

/-- 40_flow.md section 2: with a return address held, a return pops the top into pc. That the popped cell and
the other dead cells keep their contents is the model's choice (log 2). -/
def Obligations.ReturnPopsIntoPc : Prop :=
  ∀ s : State, s.sp.val ≠ 0 →
    ∃ t, exec .ret s = .next t ∧ t.sp.val + 1 = s.sp.val ∧
      (∀ h : t.sp.val < 16, t.pc = s.stack[t.sp.val]) ∧ t = { s with pc := t.pc, sp := t.sp }

/-- 40_flow.md sections 2 and 4: a call and then a return, wherever pc is in between, come back to the instruction
after the call with every live cell of the call stack as before (decision D21 on what is pushed). -/
def Obligations.ReturnUndoesCall : Prop :=
  ∀ (nnn : Addr) (s : State) (pc' : Word), s.sp.val < 16 →
    ∃ t u, exec (.call nnn) s = .next t ∧ exec .ret (t.setPc pc') = .next u ∧
      u.pc = s.pc ∧ u.sp = s.sp ∧ ∀ (j : Nat) (h : j < 16), j < s.sp.val → u.stack[j] = s.stack[j]

/-- R103 and R104: a taken skip leaves pc at ia + 4, an untaken one at ia + 2; nothing but pc can change. -/
def Obligations.ImmediateSkipsCompareAllBits : Prop :=
  ∀ (x : Reg) (kk : Byte) (s : State),
    decodeWord (0x3#4 ++ x ++ kk) = .ok (.seImm x kk) ∧ decodeWord (0x4#4 ++ x ++ kk) = .ok (.sneImm x kk) ∧
    (∃ t, exec (.seImm x kk) s = .next t ∧ t = { s with pc := t.pc } ∧
      t.pc = if (s.readV x).toNat = kk.toNat then s.pc + 2 else s.pc) ∧
    (∃ t, exec (.sneImm x kk) s = .next t ∧ t = { s with pc := t.pc } ∧
      t.pc = if (s.readV x).toNat = kk.toNat then s.pc else s.pc + 2)

/-- 40_flow.md sections 7 and 8: the register skips, whatever the low nibble of their word (decision D4); with x = y
the first always skips and the second never. -/
def Obligations.RegisterSkipsIgnoreLowNibble : Prop :=
  ∀ (x y : Reg) (u : Nibble) (s : State),
    decodeWord (0x5#4 ++ x ++ y ++ u) = .ok (.seReg x y) ∧ decodeWord (0x9#4 ++ x ++ y ++ u) = .ok (.sneReg x y) ∧
    (∃ t, exec (.seReg x y) s = .next t ∧ t = { s with pc := t.pc } ∧
      t.pc = if (s.readV x).toNat = (s.readV y).toNat then s.pc + 2 else s.pc) ∧
    (∃ t, exec (.sneReg x y) s = .next t ∧ t = { s with pc := t.pc } ∧
      t.pc = if (s.readV x).toNat = (s.readV y).toNat then s.pc else s.pc + 2)

/-! ## Index register and memory (42_index_memory.md) -/

/-- R130. -/
def Obligations.SetIndexZeroExtends : Prop :=
  ∀ (nnn : Addr) (s : State),
    decodeWord (0xA#4 ++ nnn) = .ok (.ldI nnn) ∧
    ∃ t, exec (.ldI nnn) s = .next t ∧ t.I.toNat = nnn.toNat ∧ t.I.toNat ≤ 0x0FFF ∧ t = { s with I := t.I }

/-- 42_index_memory.md section 3: the 16-bit add, `V[x]` read before VF is written, and VF by `ADDI_FLAG_MODE`, which
is open (decisions D8, D9; log 6). -/
def Obligations.AddIndexFollowsFlagMode : Prop :=
  ∀ (x : Reg) (s : State) (sum : Nat), sum = s.I.toNat + (s.readV x).toNat →
    ∃ t, exec (.addI x) s = .next t ∧ t = { s with I := t.I, v := t.v } ∧ t.I.toNat = sum % 65536 ∧
      (∀ r, r ≠ 0xF → t.readV r = s.readV r) ∧
      (addiFlagMode = .none → t.readV 0xF = s.readV 0xF) ∧
      (addiFlagMode = .setOnly → t.readV 0xF = if 0x0FFF < sum then 0x01 else s.readV 0xF) ∧
      (addiFlagMode = .setClear → t.readV 0xF = if 0x0FFF < sum then 0x01 else 0x00)

/-- 42_index_memory.md section 4: the base plus five times the whole 8-bit value (decision D10); memory is not
touched. -/
def Obligations.FontAddressIsBasePlusFiveTimes : Prop :=
  ∀ (x : Reg) (s : State), ∃ t, exec (.ldF x) s = .next t ∧ t.I.toNat = 0x50 + 5 * (s.readV x).toNat ∧
    t = { s with I := t.I }

/-- R133: three digits at I, I + 1, I + 2, or OutOfBounds at the first address out of range. The premise is the
canonical form of memory. -/
def Obligations.BcdStoresThreeDigits : Prop :=
  ∀ (x : Reg) (s : State), MemCanonical s →
    decodeWord (0xF#4 ++ x ++ 0x33#8) = .ok (.ldB x) ∧
    (s.I.toNat + 2 < 4096 → ∃ t, exec (.ldB x) s = .next t ∧ OnlyMemChanges s t s.I.toNat 3 ∧
      (Memory.read t.mem s.I.toNat).toNat = (s.readV x).toNat / 100 ∧
      (Memory.read t.mem (s.I.toNat + 1)).toNat = (s.readV x).toNat / 10 % 10 ∧
      (Memory.read t.mem (s.I.toNat + 2)).toNat = (s.readV x).toNat % 10) ∧
    (4096 ≤ s.I.toNat + 2 → ∃ t r, exec (.ldB x) s = .next t ∧ t.fault = some r ∧ r.code = .outOfBounds ∧
      r.maddr = some (max s.I.toNat 4096))

/-- R134: V0 to Vx, inclusive, to I on; I and the registers are unchanged. The premise is the canonical form of
memory. -/
def Obligations.StoreRegistersWritesRange : Prop :=
  ∀ (x : Reg) (s : State), MemCanonical s →
    decodeWord (0xF#4 ++ x ++ 0x55#8) = .ok (.storeRegs x) ∧
    (s.I.toNat + x.toNat < 4096 → ∃ t, exec (.storeRegs x) s = .next t ∧
      OnlyMemChanges s t s.I.toNat (x.toNat + 1) ∧
      ∀ r : Reg, r.toNat ≤ x.toNat → Memory.read t.mem (s.I.toNat + r.toNat) = s.readV r) ∧
    (4096 ≤ s.I.toNat + x.toNat → ∃ t r, exec (.storeRegs x) s = .next t ∧ t.fault = some r ∧
      r.code = .outOfBounds)

/-- R135: V0 to Vx, inclusive, from I on; the registers above x, I and memory are unchanged. -/
def Obligations.LoadRegistersReadsRange : Prop :=
  ∀ (x : Reg) (s : State),
    decodeWord (0xF#4 ++ x ++ 0x65#8) = .ok (.loadRegs x) ∧
    (s.I.toNat + x.toNat < 4096 → ∃ t, exec (.loadRegs x) s = .next t ∧
      RegsBecome s t fun r => if r.toNat ≤ x.toNat then Memory.read s.mem (s.I.toNat + r.toNat) else s.readV r) ∧
    (4096 ≤ s.I.toNat + x.toNat → ∃ t r, exec (.loadRegs x) s = .next t ∧ t.fault = some r ∧
      r.code = .outOfBounds)

/-- 42_index_memory.md sections 6 and 7: a store of V0 to Vx followed by a load of V0 to Vx from the same I gives the
registers back, whatever they hold in between. The premise is the canonical form of memory. -/
def Obligations.LoadAfterStoreRestoresRegisters : Prop :=
  ∀ (x : Reg) (s t u : State) (w : Vector Byte 16), MemCanonical s → s.I.toNat + x.toNat < 4096 →
    exec (.storeRegs x) s = .next t → exec (.loadRegs x) (t.setV w) = .next u →
    ∀ r : Reg, r.toNat ≤ x.toNat → u.readV r = s.readV r

/-! ## Display (43_display.md) -/

/-- 43_display.md section 1: every cell off, dirty set; `collision` is kept (decision D15); nothing else changes. -/
def Obligations.ClearScreenBlanksAndMarksDirty : Prop :=
  ∀ s : State, ∃ t, exec .cls s = .next t ∧ t = { s with display := t.display } ∧
    (∀ c r, c < 64 → r < 32 → getPx t.display.px c r = false) ∧ t.display.dirty = true ∧
    t.display.collision = s.display.collision

/-- 43_display.md section 2 (the blit): on a row of the screen, the eight bits from `x0` on are XORed into it, bit 7
leftmost (decision D13); bits at column 64 or more are dropped and do not reappear; collision is added exactly when
a cell goes from on to off. -/
def Obligations.BlitRowXorsAndCollides : Prop :=
  ∀ (x0 y0 : Nat) (b : Byte) (d : Display), x0 < 64 → y0 < 32 →
    (∀ c r, c < 64 → r < 32 → getPx (d.blitRow x0 y0 b).px c r =
      (getPx d.px c r ^^ (decide (r = y0 ∧ x0 ≤ c ∧ c < x0 + 8) && b.getLsbD (7 - (c - x0))))) ∧
    ((d.blitRow x0 y0 b).collision = true ↔
      d.collision = true ∨ ∃ c, x0 ≤ c ∧ c < x0 + 8 ∧ c < 64 ∧ b.getLsbD (7 - (c - x0)) = true ∧
        getPx d.px c y0 = true) ∧
    (d.blitRow x0 y0 b).dirty = d.dirty

/-- 43_display.md section 2: the whole of DXYN. The start wraps, cells after it are clipped right; bottom clipping is
the parameter `DRAW_VWRAP` (decision D12, log 8), so the statement asks that it be false or that no row pass the
bottom edge. Coordinates are read before VF is cleared (D11), bit 7 is leftmost (D13), dirty is always marked (D14).
Each cell is XORed with its sprite bit; VF and `collision` say whether a cell went from on to off; no register but
VF, and nothing outside the display, changes. -/
def Obligations.DrawXorsSpriteAndReportsCollision : Prop :=
  ∀ (x y : Reg) (n : Nibble) (s : State) (cx cy : Nat) (lit : Nat → Nat → Bool),
    cx = (s.readV x).toNat % 64 → cy = (s.readV y).toNat % 32 →
    (∀ c r, lit c r = (decide (cx ≤ c ∧ c < cx + 8 ∧ cy ≤ r ∧ r < cy + n.toNat) &&
      (Memory.read s.mem (s.I.toNat + (r - cy))).getLsbD (7 - (c - cx)))) →
    n.toNat = 0 ∨ s.I.toNat + n.toNat ≤ 4096 → drawVwrap = false ∨ cy + n.toNat ≤ 32 →
    ∃ t, exec (.drw x y n) s = .next t ∧ t = { s with v := t.v, display := t.display } ∧
      (∀ c r, c < 64 → r < 32 → getPx t.display.px c r = (getPx s.display.px c r ^^ lit c r)) ∧
      (t.display.collision = true ↔
        ∃ c r, c < 64 ∧ r < 32 ∧ lit c r = true ∧ getPx s.display.px c r = true) ∧
      (∀ q, t.readV q = if q = 0xF then (if t.display.collision = true then 0x01 else 0x00) else s.readV q) ∧
      t.display.dirty = true

/-- 43_display.md section 2, corner case (b), over every sprite and place: drawing the same sprite twice at the same
place, from the same registers and memory, gives every cell back ("XOR self-cancels"). The same vertical premise as
above (decision D12, log 8). -/
def Obligations.DrawingTwiceRestoresGrid : Prop :=
  ∀ (x y : Reg) (n : Nibble) (s t u : State), x ≠ 0xF → y ≠ 0xF →
    n.toNat = 0 ∨ s.I.toNat + n.toNat ≤ 4096 →
    drawVwrap = false ∨ (s.readV y).toNat % 32 + n.toNat ≤ 32 →
    exec (.drw x y n) s = .next t → exec (.drw x y n) t = .next u →
    ∀ c r, c < 64 → r < 32 → getPx u.display.px c r = getPx s.display.px c r

/-! ## Keys and timers (44_keys_timers.md) -/

/-- 44_keys_timers.md section 1: the key skips compare all 8 bits of `V[x]` with the key down (decision D17); nothing
but pc can change. -/
def Obligations.KeySkipsTestKeyDown : Prop :=
  ∀ (x : Reg) (s : State) (pressed : Prop), (pressed ↔ ∃ k, s.kb.down = some k ∧ k.toNat = (s.readV x).toNat) →
    (∃ t, exec (.skp x) s = .next t ∧ t = { s with pc := t.pc } ∧
      (pressed → t.pc = s.pc + 2) ∧ (¬ pressed → t.pc = s.pc)) ∧
    (∃ t, exec (.sknp x) s = .next t ∧ t = { s with pc := t.pc } ∧
      (pressed → t.pc = s.pc) ∧ (¬ pressed → t.pc = s.pc + 2))

/-- 44_keys_timers.md section 2: with a release signalled the released key goes to `V[x]`, and the keyboard is not
changed (decision D18); with none pc is rewound and nothing else changes; a signal with no released key is refused
(decision D36, log 14). -/
def Obligations.KeyWaitTakesReleaseOrRewinds : Prop :=
  ∀ (x : Reg) (s : State),
    (∀ k, s.kb.signal = true → s.kb.last = some k → ∃ t, exec (.ldVxK x) s = .next t ∧
      (t.readV x).toNat = k.toNat ∧ RegsBecome s t fun r => if r = x then t.readV x else s.readV r) ∧
    (s.kb.signal = false → exec (.ldVxK x) s = .next { s with pc := s.pc - 2 }) ∧
    (s.kb.signal = true → s.kb.last = none → exec (.ldVxK x) s = .refused .keySignalWithoutKey)

/-- R163 and R164: the delay timer to `V[x]`, and `V[x]` to the delay timer; what FX07 reads `n` ticks after an FX15
is the value written minus `n`, floored at 0. -/
def Obligations.DelayTimerMovesBothWays : Prop :=
  ∀ (x y : Reg) (s : State) (n : Nat),
    decodeWord (0xF#4 ++ x ++ 0x07#8) = .ok (.ldVxDt x) ∧ decodeWord (0xF#4 ++ x ++ 0x15#8) = .ok (.ldDtVx x) ∧
    (∃ t, exec (.ldVxDt x) s = .next t ∧ RegsBecome s t fun r => if r = x then s.dt else s.readV r) ∧
    (∃ t u, exec (.ldDtVx x) s = .next t ∧ t.dt = s.readV x ∧ t = { s with dt := t.dt } ∧
      exec (.ldVxDt y) (tickTimers^[n] t) = .next u ∧ (u.readV y).toNat = (s.readV x).toNat - n)

/-- 44_keys_timers.md section 3: `V[x]` to the sound timer, nothing else; the output `sound_active`, the spec's own
addition (decision D23), follows it at once. -/
def Obligations.SoundTimerWriteDrivesOutput : Prop :=
  ∀ (x : Reg) (s : State), ∃ t, exec (.ldStVx x) s = .next t ∧ t.st = s.readV x ∧ t = { s with st := t.st } ∧
    (soundActive t = true ↔ (s.readV x).toNat ≠ 0)

/-! ## Memory (20_memory.md) -/

/-- R52 and R54: single-byte accesses. The premise is the canonical form of memory. -/
def Obligations.ByteAccessesAreCheckedStorage : Prop :=
  ∀ (m : Memory) (a : Nat) (v : Byte), Memory.wf m = true →
    (a < 4096 → memRead m a = .ok (Memory.read m a) ∧
      ∃ m', memWrite m a v = .ok m' ∧ memRead m' a = .ok v ∧ ∀ c, c ≠ a → memRead m' c = memRead m c) ∧
    (4096 ≤ a → memRead m a = .error (.outOfBounds a) ∧ memWrite m a v = .error (.outOfBounds a))

/-- R56: the round trip of a byte sequence, written as a block (`write_block`) or byte by byte, and the failure past the
bound: of a block write of any length, the empty one too, and of the single-byte writes and reads of at least one byte
(with no byte nothing is accessed). The premise is the canonical form of memory (log 19). -/
def Obligations.WrittenSequenceReadsBack : Prop :=
  ∀ (m : Memory) (a : Nat) (bs : List Byte), Memory.wf m = true →
    (a + bs.length ≤ 4096 → ∃ m', writeBlockBytes m a bs = .ok m' ∧ writeBytes m a bs = .ok m' ∧
      (∀ (j : Nat) (h : j < bs.length), memRead m' (a + j) = .ok bs[j]) ∧
      readBytes m' a bs.length = .ok bs ∧
      ∀ c, c < a ∨ a + bs.length ≤ c → memRead m' c = memRead m c) ∧
    (4096 < a + bs.length → (∃ e, writeBlockBytes m a bs = .error e) ∧
      (bs ≠ [] → (∃ e, writeBytes m a bs = .error e) ∧ ∃ e, readBytes m a bs.length = .error e)) ∧
    ∀ c, c < 4096 → memRead State.reset.mem c = .ok 0

/-- Log 19, the model's own form of memory: every step, the CPU's or the host's, keeps it canonical, after a fatal
error too. -/
def Obligations.EveryStepKeepsMemoryCanonical : Prop :=
  ∀ s t : State, MemCanonical s → step s = .next t → MemCanonical t

/-! ## Fatal errors (60_exceptions.md) -/

/-- 60_exceptions.md section 1: each instruction that can raise an error takes it with the record (code, ia, op,
maddr), ia being pc - 2 during execution and maddr the first address out of range (decisions D20, D25, D32). -/
def Obligations.InstructionErrorsAreRecorded : Prop :=
  ∀ (s : State) (nnn : Addr) (x y : Reg) (n : Nibble),
    (s.sp.val = 0 → FaultsWith (exec .ret s) ⟨.stackUnderflow, some (s.pc - 2), some 0x00EE, none⟩) ∧
    (s.sp.val = 16 → FaultsWith (exec (.call nnn) s) ⟨.stackOverflow, some (s.pc - 2), some (0x2#4 ++ nnn), none⟩) ∧
    (0 < n.toNat → 4096 < s.I.toNat + n.toNat → FaultsWith (exec (.drw x y n) s)
      ⟨.outOfBounds, some (s.pc - 2), some (0xD#4 ++ x ++ y ++ n), some (max s.I.toNat 4096)⟩) ∧
    (4096 ≤ s.I.toNat + 2 → FaultsWith (exec (.ldB x) s)
      ⟨.outOfBounds, some (s.pc - 2), some (0xF#4 ++ x ++ 0x33#8), some (max s.I.toNat 4096)⟩) ∧
    (4096 ≤ s.I.toNat + x.toNat → FaultsWith (exec (.storeRegs x) s)
      ⟨.outOfBounds, some (s.pc - 2), some (0xF#4 ++ x ++ 0x55#8), some (max s.I.toNat 4096)⟩) ∧
    (4096 ≤ s.I.toNat + x.toNat → FaultsWith (exec (.loadRegs x) s)
      ⟨.outOfBounds, some (s.pc - 2), some (0xF#4 ++ x ++ 0x65#8), some (max s.I.toNat 4096)⟩)

/-- 60_exceptions.md section 1 (priority): in a running machine an instruction raises at most the one error the spec
gives it, and the other 27 raise none. -/
def Obligations.OnlySixInstructionsRaiseErrors : Prop :=
  ∀ (i : Instr) (s t : State) (r : FaultRecord), Running s → exec i s = .next t → t.fault = some r →
    (i = .ret ∧ r.code = .stackUnderflow) ∨ ((∃ nnn, i = .call nnn) ∧ r.code = .stackOverflow) ∨
    (((∃ x y n, i = .drw x y n) ∨ (∃ x, i = .ldB x) ∨ (∃ x, i = .storeRegs x) ∨ ∃ x, i = .loadRegs x) ∧
      r.code = .outOfBounds)

/-- 60_exceptions.md section 1 (decision D26): after a fatal error `step()` does nothing and the record stays; only
`reset()` makes the machine run again, from the reset state (the model's own `free` and `hostOps` go on, log 16);
every other host operation is refused (U21, log 13). -/
def Obligations.DeadMachineWaitsForReset : Prop :=
  ∀ (s : State) (op : HostOp) (rest : List HostOp), ¬ Running s →
    step { s with hostOps := [] } = .next { s with hostOps := [] } ∧
    step { s with hostOps := .step :: rest } = .next { s with hostOps := rest } ∧
    step { s with hostOps := .reset :: rest } =
      .next { State.reset with free := s.free, hostOps := rest } ∧
    (op ≠ .step → op ≠ .reset → step { s with hostOps := op :: rest } = .refused .hostOpAfterFault)

/-! ## Whole-machine rules -/

/-- 10_state.md sections 4 and 7 and rules on pc (all marked derived there): the invariants of a running machine hold
after every step, the CPU's or the host's, whatever the host's list: a release signal has its key, pc is at most
0x1002, and the live stack cells hold addresses a call pushes. -/
def Obligations.EveryStepKeepsRunningInvariant : Prop :=
  ∀ s t : State, RunningInv s → step s = .next t → RunningInv t

/-- 10_state.md section 11: both invariants hold at reset. -/
def Obligations.ResetMeetsInvariants : Prop := RunningInv State.reset ∧ MemCanonical State.reset ∧ Running State.reset

/-- 10_state.md section 11 and 70_reset_and_hazards.md section 1: the state right after reset. Memory and pc are the
source's; the other values are decision D19; the dead stack cells are left out (log 2). -/
def Obligations.ResetValues : Prop :=
  State.reset.pc = 0x200 ∧ (∀ a, Memory.read State.reset.mem a = 0) ∧ (∀ r, State.reset.readV r = 0) ∧
  State.reset.I = 0 ∧ State.reset.sp.val = 0 ∧ State.reset.dt = 0 ∧ State.reset.st = 0 ∧
  (∀ c r, getPx State.reset.display.px c r = false) ∧ State.reset.display.collision = false ∧
  State.reset.display.dirty = false ∧ State.reset.kb = ⟨none, none, false⟩ ∧ State.reset.fault = none ∧
  soundActive State.reset = false

/-- 10_state.md sections 2 (I), 3 (pc), 4 (the call stack), 5 (DT, ST), 6 (the display) and 7 (the keyboard) and
20_memory.md section 3 (memory): which instructions can change which state, for every instruction that completes
without a fatal error. The keyboard is changed by none. The unchanged dead stack cells are the model's choice (log 2), and
the model's own fields change only as log 5, 11 and 12 say. -/
def Obligations.OnlyNamedInstructionsChangeState : Prop :=
  ∀ (i : Instr) (s t : State), Running s → exec i s = .next t → Running t →
    (t.I ≠ s.I → (∃ nnn, i = .ldI nnn) ∨ (∃ x, i = .addI x) ∨ ∃ x, i = .ldF x) ∧
    (t.dt ≠ s.dt → ∃ x, i = .ldDtVx x) ∧
    (t.st ≠ s.st → ∃ x, i = .ldStVx x) ∧
    (t.sp ≠ s.sp ∨ t.stack ≠ s.stack → i = .ret ∨ ∃ nnn, i = .call nnn) ∧
    (t.mem ≠ s.mem → (∃ x, i = .ldB x) ∨ ∃ x, i = .storeRegs x) ∧
    (t.display ≠ s.display → i = .cls ∨ ∃ x y n, i = .drw x y n) ∧
    (t.pc ≠ s.pc → i = .ret ∨ (∃ nnn, i = .jp nnn) ∨ (∃ nnn, i = .call nnn) ∨ (∃ x kk, i = .seImm x kk) ∨
      (∃ x kk, i = .sneImm x kk) ∨ (∃ x y, i = .seReg x y) ∨ (∃ x y, i = .sneReg x y) ∨ (∃ x, i = .skp x) ∨
      (∃ x, i = .sknp x) ∨ ∃ x, i = .ldVxK x) ∧
    (t.free ≠ s.free → ∃ x kk, i = .rnd x kk) ∧
    t.kb = s.kb ∧ t.started = s.started ∧ t.hostOps = s.hostOps

/-- 10_state.md section 1: VF changes only by the instructions the spec lists as writing it as a side effect (FX1E
only when `ADDI_FLAG_MODE` is not `NONE`), or by an instruction whose destination it is. Decision D6 on the flag
being what remains. -/
def Obligations.OnlyListedInstructionsChangeFlagRegister : Prop :=
  ∀ (i : Instr) (s t : State), Running s → exec i s = .next t → Running t → t.readV 0xF ≠ s.readV 0xF →
    (∃ x y, i = .addReg x y ∨ i = .subReg x y ∨ i = .subn x y ∨ i = .shr x y ∨ i = .shl x y) ∨
    (∃ x y n, i = .drw x y n) ∨ ((∃ x, i = .addI x) ∧ addiFlagMode ≠ .none) ∨
    (∃ kk, i = .ldImm 0xF kk ∨ i = .addImm 0xF kk ∨ i = .rnd 0xF kk) ∨
    (∃ y, i = .ldReg 0xF y ∨ i = .orReg 0xF y ∨ i = .andReg 0xF y ∨ i = .xorReg 0xF y) ∨
    i = .ldVxDt 0xF ∨ i = .ldVxK 0xF ∨ i = .loadRegs 0xF

/-! ## Host operations (60_exceptions.md section 3) -/

/-- 60_exceptions.md section 3.1: both timers in one tick, floored at 0, however often; nothing else changes. -/
def Obligations.TicksFloorBothTimersAtZero : Prop :=
  ∀ (s : State) (n : Nat),
    tickTimers s = { s with dt := (tickTimers s).dt, st := (tickTimers s).st } ∧
    (tickTimers^[n] s).dt.toNat = s.dt.toNat - n ∧ (tickTimers^[n] s).st.toNat = s.st.toNat - n ∧
    State.reset.dt = 0 ∧ State.reset.st = 0 ∧ (soundActive (tickTimers s) = true ↔ 1 < s.st.toNat)

/-- R192 and R194: `key_down(k)` replaces the key that is down and leaves the other two; `clear_signals()` clears the
signal alone. -/
def Obligations.KeyDownAndClearTouchOneElement : Prop :=
  ∀ (kb : Keyboard) (k : Key),
    (kb.keyDown k).down = some k ∧ (kb.keyDown k).last = kb.last ∧ (kb.keyDown k).signal = kb.signal ∧
    kb.clearSignals.signal = false ∧ kb.clearSignals.last = kb.last ∧ kb.clearSignals.down = kb.down

/-- 60_exceptions.md section 3.2: `key_up()` releases the current key and signals it; with no key down it changes
nothing (decision D16). -/
def Obligations.KeyUpRecordsRelease : Prop :=
  ∀ kb : Keyboard,
    (∀ k, kb.down = some k → kb.keyUp.down = none ∧ kb.keyUp.last = some k ∧ kb.keyUp.signal = true) ∧
    (kb.down = none → kb.keyUp = kb)

/-- 60_exceptions.md section 3.2: the three queries of the keyboard, and the source's worked case (R200). -/
def Obligations.KeyboardQueriesReadState : Prop :=
  ∀ (s : State) (k : Key),
    (isKeyPressed s.kb (keyByte k) = true ↔ s.kb.down = some k) ∧
    (hasSignalKeypress s = true ↔ s.kb.signal = true) ∧ keyLastReleased s = s.kb.last ∧
    keyLastReleased (s.setKb (s.kb.keyDown 5).keyUp) = some 5 ∧
    hasSignalKeypress (s.setKb (s.kb.keyDown 5).keyUp) = true ∧
    keyLastReleased (s.setKb (s.kb.keyDown 5).keyUp.clearSignals) = some 5 ∧
    hasSignalKeypress (s.setKb (s.kb.keyDown 5).keyUp.clearSignals) = false

/-- 60_exceptions.md section 3.3: the dirty flag read, and read then cleared (decision D29); the snapshot in row-major
order (decision D30). -/
def Obligations.DisplayQueriesAndSnapshotOrder : Prop :=
  ∀ s : State,
    isDirty s = s.display.dirty ∧ (consumeDirty s).1 = s.display.dirty ∧ isDirty (consumeDirty s).2 = false ∧
    (consumeDirty s).2 = { s with display := { s.display with dirty := false } } ∧
    ∀ (c r : Nat) (hc : c < 64) (hr : r < 32), (snapshot s)[r * 64 + c] = getPx s.display.px c r

/-- 60_exceptions.md section 3.4: the 80 bytes of the font at 0x050 to 0x09F, nothing else, without failing. The premise is the canonical
form of memory. -/
def Obligations.FontLoadWritesEightyBytes : Prop :=
  ∀ s : State, MemCanonical s → fontTable.length = 80 ∧
    ∃ t, loadFont s = .next t ∧ OnlyMemChanges s t 0x50 80 ∧
      ∀ (j : Nat) (h : j < fontTable.length), Memory.read t.mem (0x50 + j) = fontTable[j]

/-- R196: the program's bytes from 0x200 on and nothing else, or OutOfBounds when they pass the end of memory. The
premise is the canonical form of memory. -/
def Obligations.ProgramLoadWritesOrFails : Prop :=
  ∀ (s : State) (bytes : List Byte), MemCanonical s →
    (bytes.length ≤ 3584 → ∃ t, loadProgram bytes s = .next t ∧ OnlyMemChanges s t 0x200 bytes.length ∧
      ∀ (j : Nat) (h : j < bytes.length), Memory.read t.mem (0x200 + j) = bytes[j]) ∧
    (3584 < bytes.length → ∃ t r, loadProgram bytes s = .next t ∧ t.fault = some r ∧ r.code = .outOfBounds)

/-- 60_exceptions.md section 3 (log 11, the model's list of host operations): in a running machine the oldest
operation of the list is performed, on the state without it: each of the nine; `reset()` gives the reset state, the
model's own `free` and `hostOps` going on (log 16); a load after the first step is refused (decision D28, log 13). -/
def Obligations.HostOperationsRunInListOrder : Prop :=
  ∀ (s : State) (rest : List HostOp) (k : Key) (bytes : List Byte) (u : State),
    Running s → u = { s with hostOps := rest } →
    step { s with hostOps := .step :: rest } = cpuStep u ∧
    step { s with hostOps := .reset :: rest } = .next { State.reset with free := s.free, hostOps := rest } ∧
    step { s with hostOps := .tickTimers :: rest } = .next (tickTimers u) ∧
    step { s with hostOps := .keyDown k :: rest } = .next { u with kb := u.kb.keyDown k } ∧
    step { s with hostOps := .keyUp :: rest } = .next { u with kb := u.kb.keyUp } ∧
    step { s with hostOps := .clearSignals :: rest } = .next { u with kb := u.kb.clearSignals } ∧
    step { s with hostOps := .consumeDirty :: rest } = .next (consumeDirty u).2 ∧
    (s.started = false → step { s with hostOps := .loadFont :: rest } = loadFont u ∧
      step { s with hostOps := .loadProgram bytes :: rest } = loadProgram bytes u) ∧
    (s.started = true → step { s with hostOps := .loadFont :: rest } = .refused .loadAfterFirstStep ∧
      step { s with hostOps := .loadProgram bytes :: rest } = .refused .loadAfterFirstStep)

/-- 70_reset_and_hazards.md section 2 (marked derived there): the launch state: from reset, the two loads give the font
at 0x050, the program at 0x200, every other cell 0, and nothing else changed (the list of host operations is the
model's, log 11). -/
def Obligations.BootReachesLaunchState : Prop :=
  ∀ program : List Byte, program.length ≤ 3584 →
    ∃ s1 s2, step (State.boot program) = .next s1 ∧ step s1 = .next s2 ∧
      s2 = { State.reset with mem := s2.mem } ∧
      (∀ (j : Nat) (h : j < fontTable.length), Memory.read s2.mem (0x50 + j) = fontTable[j]) ∧
      (∀ (j : Nat) (h : j < program.length), Memory.read s2.mem (0x200 + j) = program[j]) ∧
      ∀ c, (c < 0x50 ∨ 0xA0 ≤ c) → (c < 0x200 ∨ 0x200 + program.length ≤ c) → Memory.read s2.mem c = 0

/-- Log 15, the model's way to place one instruction: whatever the state, the next step runs it. -/
def Obligations.PlacedWordRunsNext : Prop :=
  ∀ (s : State) (w : Nat) (i : Instr), MemCanonical s → decodeTableWord 16 w = some i →
    ∃ u : State, step (s.withFetchWord 16 w) = exec i u ∧
      u = { s with mem := u.mem, pc := u.pc, fault := none, hostOps := [], started := true } ∧
      (s.pc.toNat + 1 < 4096 → u.pc = s.pc + 2 ∧
        ∀ c, c ≠ s.pc.toNat → c ≠ s.pc.toNat + 1 → Memory.read u.mem c = Memory.read s.mem c)

/-- Log 19, the model's own form of memory: each memory write that completes, of a byte, of a sequence or of a block,
keeps it canonical. -/
def Obligations.WritesKeepMemoryCanonical : Prop :=
  ∀ (m m' : Memory) (a : Nat) (v : Byte) (bs : List Byte), Memory.wf m = true →
    (memWrite m a v = .ok m' → Memory.wf m' = true) ∧
    (writeBytes m a bs = .ok m' → Memory.wf m' = true) ∧
    (writeBlockBytes m a bs = .ok m' → Memory.wf m' = true)
end

