-- ==== Sys2Proof/Laws/Display.lean ====
section
/-!
SUPPORT. The grid and one bit of a blit (43_display.md R145, R146): what changes and what does not.
-/

namespace Sys2Proof.Machine

/-- A cell written is the cell read, and no other (10_state.md R31). -/
theorem getPx_setPx (g : Grid) (x y x' y' : Nat) (b : Bool) (hx : x < 64) (hy : y < 32) :
    getPx (setPx g x y b) x' y' = if x = x' ∧ y = y' then b else getPx g x' y' := by
  by_cases h : y' < 32 ∧ x' < 64
  · by_cases hyy : y = y'
    · subst hyy
      by_cases hxx : x = x'
      · subst hxx
        simp [getPx, setPx, hx, hy]
      · simp [getPx, setPx, hx, hy, h, hxx]
    · simp [getPx, setPx, hx, hy, h, hyy]
  · have hne : ¬ (x = x' ∧ y = y') := by rintro ⟨rfl, rfl⟩; exact h ⟨hy, hx⟩
    rw [if_neg hne, getPx, getPx, dif_neg h, dif_neg h]

/-- A blank grid has no cell on. -/
theorem getPx_blank (x y : Nat) : getPx (Vector.replicate 32 (Vector.replicate 64 false)) x y = false := by
  unfold getPx
  split <;> simp

/-- One bit of a blit on a row of the screen: its cell is inverted exactly when the bit is 1 and the column is on the
screen; no other cell changes. -/
theorem getPx_blitBit (x0 y0 : Nat) (b : Byte) (d : Display) (i x y : Nat) (hy : y0 < 32) :
    getPx (d.blitBit x0 y0 b i).px x y =
      (getPx d.px x y ^^ (decide (x = x0 + i ∧ y = y0 ∧ x < 64) && spriteBit b i)) := by
  unfold Display.blitBit
  split
  case isTrue h =>
    rw [getPx_setPx _ _ _ _ _ _ h.1 hy]
    by_cases hc : x0 + i = x ∧ y0 = y
    · obtain ⟨rfl, rfl⟩ := hc
      have h1 : x0 + i < 64 := h.1
      simp [h.2, h1]
    · have hc' : ¬ (x = x0 + i ∧ y = y0 ∧ x < 64) := by omega
      simp [hc, hc']
  case isFalse h =>
    have h' : (decide (x = x0 + i ∧ y = y0 ∧ x < 64) && spriteBit b i) = false := by
      by_contra hcon
      simp only [Bool.not_eq_false, Bool.and_eq_true, decide_eq_true_eq] at hcon
      exact h ⟨hcon.1.1 ▸ hcon.1.2.2, hcon.2⟩
    rw [h', Bool.xor_false]

/-- One bit of a blit adds a collision exactly when its cell goes from on to off (R145). -/
theorem blitBit_collision (x0 y0 : Nat) (b : Byte) (d : Display) (i : Nat) :
    (d.blitBit x0 y0 b i).collision =
      (d.collision || (decide (x0 + i < 64) && spriteBit b i && getPx d.px (x0 + i) y0)) := by
  unfold Display.blitBit
  split
  case isTrue h => have h1 : x0 + i < 64 := h.1; simp [h.2, h1]
  case isFalse h =>
    have h' : (decide (x0 + i < 64) && spriteBit b i) = false := by
      by_contra hcon
      simp only [Bool.not_eq_false, Bool.and_eq_true, decide_eq_true_eq] at hcon
      exact h hcon
    simp [h']

/-- A blit does not touch the dirty flag (R149 sets it at the end of the draw). -/
theorem blitBit_dirty (x0 y0 : Nat) (b : Byte) (d : Display) (i : Nat) :
    (d.blitBit x0 y0 b i).dirty = d.dirty := by
  unfold Display.blitBit
  split <;> rfl

end Sys2Proof.Machine
end

