-- ==== Sys2Proof/Laws/Encoding.lean ====
section
/-!
SUPPORT. The three ways an opcode is put together (30_encoding.md R72) and what each field of it reads back as (R71).
-/

namespace Sys2Proof

/-- The number of a concatenation, `a` the high part (00_scope.md R11). -/
theorem toNat_concat {n m : Nat} (a : BitVec n) (b : BitVec m) : (a ++ b).toNat = a.toNat * 2 ^ m + b.toNat := by
  rw [BitVec.toNat_append, Nat.shiftLeft_eq, Nat.mul_comm, Nat.two_pow_add_eq_or_of_lt b.isLt]

theorem toNat_encodeA (n3 : Nibble) (nnn : Addr) : (encodeA n3 nnn).toNat = n3.toNat * 2 ^ 12 + nnn.toNat :=
  toNat_concat n3 nnn

theorem toNat_encodeXK (n3 : Nibble) (x : Reg) (kk : Byte) :
    (encodeXK n3 x kk).toNat = (n3.toNat * 2 ^ 4 + x.toNat) * 2 ^ 8 + kk.toNat :=
  (toNat_concat (n3 ++ x) kk).trans (by rw [toNat_concat])

theorem toNat_encodeXYN (n3 : Nibble) (x y : Reg) (n : Nibble) :
    (encodeXYN n3 x y n).toNat = ((n3.toNat * 2 ^ 4 + x.toNat) * 2 ^ 4 + y.toNat) * 2 ^ 4 + n.toNat :=
  (toNat_concat (n3 ++ x ++ y) n).trans (by rw [toNat_concat, toNat_concat])

theorem toNat_wordOfBytes (hi lo : Byte) : (wordOfBytes hi lo).toNat = hi.toNat * 2 ^ 8 + lo.toNat :=
  toNat_concat hi lo

/-! ## The fields of format `A` -/

@[simp] theorem fieldN3_encodeA (n3 : Nibble) (nnn : Addr) : fieldN3 (encodeA n3 nnn) = n3 := by
  apply BitVec.eq_of_toNat_eq
  have := n3.isLt; have := nnn.isLt
  simp only [fieldN3, BitVec.extractLsb'_toNat, toNat_encodeA, Nat.shiftRight_eq_div_pow]
  omega

@[simp] theorem fieldNnn_encodeA (n3 : Nibble) (nnn : Addr) : fieldNnn (encodeA n3 nnn) = nnn := by
  apply BitVec.eq_of_toNat_eq
  have := n3.isLt; have := nnn.isLt
  simp only [fieldNnn, BitVec.extractLsb'_toNat, toNat_encodeA, Nat.shiftRight_eq_div_pow]
  omega

/-! ## The fields of formats `XK` and `X` -/

@[simp] theorem fieldN3_encodeXK (n3 : Nibble) (x : Reg) (kk : Byte) : fieldN3 (encodeXK n3 x kk) = n3 := by
  apply BitVec.eq_of_toNat_eq
  have := n3.isLt; have := x.isLt; have := kk.isLt
  simp only [fieldN3, BitVec.extractLsb'_toNat, toNat_encodeXK, Nat.shiftRight_eq_div_pow]
  omega

@[simp] theorem fieldX_encodeXK (n3 : Nibble) (x : Reg) (kk : Byte) : fieldX (encodeXK n3 x kk) = x := by
  apply BitVec.eq_of_toNat_eq
  have := n3.isLt; have := x.isLt; have := kk.isLt
  simp only [fieldX, BitVec.extractLsb'_toNat, toNat_encodeXK, Nat.shiftRight_eq_div_pow]
  omega

@[simp] theorem fieldKk_encodeXK (n3 : Nibble) (x : Reg) (kk : Byte) : fieldKk (encodeXK n3 x kk) = kk := by
  apply BitVec.eq_of_toNat_eq
  have := n3.isLt; have := x.isLt; have := kk.isLt
  simp only [fieldKk, BitVec.extractLsb'_toNat, toNat_encodeXK, Nat.shiftRight_eq_div_pow]
  omega

/-! ## The fields of formats `XY` and `XYN` -/

@[simp] theorem fieldN3_encodeXYN (n3 : Nibble) (x y : Reg) (n : Nibble) : fieldN3 (encodeXYN n3 x y n) = n3 := by
  apply BitVec.eq_of_toNat_eq
  have := n3.isLt; have := x.isLt; have := y.isLt; have := n.isLt
  simp only [fieldN3, BitVec.extractLsb'_toNat, toNat_encodeXYN, Nat.shiftRight_eq_div_pow]
  omega

@[simp] theorem fieldX_encodeXYN (n3 : Nibble) (x y : Reg) (n : Nibble) : fieldX (encodeXYN n3 x y n) = x := by
  apply BitVec.eq_of_toNat_eq
  have := n3.isLt; have := x.isLt; have := y.isLt; have := n.isLt
  simp only [fieldX, BitVec.extractLsb'_toNat, toNat_encodeXYN, Nat.shiftRight_eq_div_pow]
  omega

@[simp] theorem fieldY_encodeXYN (n3 : Nibble) (x y : Reg) (n : Nibble) : fieldY (encodeXYN n3 x y n) = y := by
  apply BitVec.eq_of_toNat_eq
  have := n3.isLt; have := x.isLt; have := y.isLt; have := n.isLt
  simp only [fieldY, BitVec.extractLsb'_toNat, toNat_encodeXYN, Nat.shiftRight_eq_div_pow]
  omega

@[simp] theorem fieldN_encodeXYN (n3 : Nibble) (x y : Reg) (n : Nibble) : fieldN (encodeXYN n3 x y n) = n := by
  apply BitVec.eq_of_toNat_eq
  have := n3.isLt; have := x.isLt; have := y.isLt; have := n.isLt
  simp only [fieldN, BitVec.extractLsb'_toNat, toNat_encodeXYN, Nat.shiftRight_eq_div_pow]
  omega

/-! ## Bits laid out as memory holds them -/

/-- The two bytes of a word make the word (R70, R53). -/
theorem wordOfBytes_bytesOfWord (op : Word) :
    wordOfBytes (op.extractLsb' 8 8) (op.extractLsb' 0 8) = op := by
  apply BitVec.eq_of_toNat_eq
  have := op.isLt
  rw [toNat_wordOfBytes, BitVec.extractLsb'_toNat, BitVec.extractLsb'_toNat]
  simp only [Nat.shiftRight_eq_div_pow]
  omega

/-! ## Masking -/

theorem and_ones4 (a : Nibble) : a &&& 0xF#4 = a := BitVec.and_allOnes

theorem and_ones8 (a : Byte) : a &&& 0xFF#8 = a := BitVec.and_allOnes

theorem encodeA_and (a c : Nibble) (b d : Addr) : encodeA a b &&& encodeA c d = encodeA (a &&& c) (b &&& d) :=
  BitVec.and_append

theorem encodeXK_and (a c : Nibble) (x x' : Reg) (b d : Byte) :
    encodeXK a x b &&& encodeXK c x' d = encodeXK (a &&& c) (x &&& x') (b &&& d) := by
  simp only [encodeXK]
  rw [← BitVec.and_append, ← BitVec.and_append]

theorem encodeXYN_and (a c : Nibble) (x x' y y' : Reg) (n n' : Nibble) :
    encodeXYN a x y n &&& encodeXYN c x' y' n' = encodeXYN (a &&& c) (x &&& x') (y &&& y') (n &&& n') := by
  simp only [encodeXYN]
  rw [← BitVec.and_append, ← BitVec.and_append, ← BitVec.and_append]

end Sys2Proof
end

