-- ==== Sys2Proof/Laws/Memory.lean ====
section
/-!
SUPPORT. The laws of memory: a read after a write, the canonical form and what keeps it, and what the sequences of
single-byte accesses do (20_memory.md R51 to R56, R59).
-/

namespace Sys2Proof.Machine

/-- Below its first address a canonical memory lists nothing. -/
theorem Memory.read_below {m : Memory} {lo a : Nat} (h : Memory.wfFrom lo m = true) (ha : a < lo) :
    Memory.read m a = 0#8 := by
  induction m generalizing lo with
  | nil => rfl
  | cons c rest ih =>
    obtain ⟨b, v⟩ := c
    simp only [Memory.wfFrom, Bool.and_eq_true, decide_eq_true_eq] at h
    rw [Memory.read, if_neg (by omega)]
    exact ih h.2 (by omega)

/-- The canonical form from an address on holds from every lower one. -/
theorem Memory.wfFrom_mono {m : Memory} {lo lo' : Nat} (h : Memory.wfFrom lo m = true) (hl : lo' ≤ lo) :
    Memory.wfFrom lo' m = true := by
  cases m with
  | nil => rfl
  | cons c rest =>
    simp only [Memory.wfFrom, Bool.and_eq_true, decide_eq_true_eq] at h ⊢
    exact ⟨⟨⟨by omega, h.1.1.2⟩, h.1.2⟩, h.2⟩

/-- A write leaves every other address alone (R54). -/
theorem Memory.read_write_ne (m : Memory) {a c : Nat} (v : Byte) (h : a ≠ c) :
    Memory.read (Memory.write m a v) c = Memory.read m c := by
  induction m with
  | nil => by_cases hv : v = 0#8 <;> simp [Memory.write, Memory.read, hv, h]
  | cons d rest ih =>
    obtain ⟨b, w⟩ := d
    by_cases h1 : a < b
    · by_cases hv : v = 0#8 <;> simp [Memory.write, Memory.read, h1, hv, h]
    · by_cases h2 : a = b
      · subst h2
        by_cases hv : v = 0#8 <;> simp [Memory.write, Memory.read, hv, h]
      · simp [Memory.write, Memory.read, h1, h2, ih]

/-- A read of the address just written gives the value written (R54, R56). -/
theorem Memory.read_write_self {m : Memory} {lo : Nat} (a : Nat) (v : Byte) (h : Memory.wfFrom lo m = true) :
    Memory.read (Memory.write m a v) a = v := by
  induction m generalizing lo with
  | nil => by_cases hv : v = 0#8 <;> simp [Memory.write, Memory.read, hv]
  | cons d rest ih =>
    obtain ⟨b, w⟩ := d
    simp only [Memory.wfFrom, Bool.and_eq_true, decide_eq_true_eq] at h
    by_cases h1 : a < b
    · by_cases hv : v = 0#8
      · simp [Memory.write, h1, hv, Memory.read, Nat.ne_of_gt h1, Memory.read_below h.2 (Nat.lt_succ_of_lt h1)]
      · simp [Memory.write, h1, hv, Memory.read]
    · by_cases h2 : a = b
      · subst h2
        by_cases hv : v = 0#8
        · simp [Memory.write, hv, Memory.read_below h.2 (Nat.lt_succ_self a)]
        · simp [Memory.write, hv, Memory.read]
      · have h3 : ¬ b = a := fun e => h2 e.symm
        simp [Memory.write, h1, h2, Memory.read, h3, ih h.2]

/-- A write below 4096 keeps the canonical form. -/
theorem Memory.write_wfFrom {m : Memory} {lo a : Nat} (v : Byte) (h : Memory.wfFrom lo m = true) (hl : lo ≤ a)
    (ha : a < Config.memSize) : Memory.wfFrom lo (Memory.write m a v) = true := by
  induction m generalizing lo with
  | nil => by_cases hv : v = 0#8 <;> simp [Memory.write, Memory.wfFrom, hv, hl, ha]
  | cons d rest ih =>
    obtain ⟨b, w⟩ := d
    simp only [Memory.wfFrom, Bool.and_eq_true, decide_eq_true_eq, bne_iff_ne] at h
    by_cases h1 : a < b
    · by_cases hv : v = 0#8
      · simp [Memory.write, Memory.wfFrom, h1, hv, h.1.1.1, h.1.1.2, h.1.2, h.2]
      · have h4 : a + 1 ≤ b := h1
        simp [Memory.write, Memory.wfFrom, h1, hv, h4, h.1.1.2, h.1.2, h.2, hl, ha]
    · by_cases h2 : a = b
      · subst h2
        by_cases hv : v = 0#8
        · simpa [Memory.write, hv] using Memory.wfFrom_mono h.2 (by omega)
        · simp [Memory.write, Memory.wfFrom, hv, hl, ha, h.2]
      · simp [Memory.write, Memory.wfFrom, h1, h2, h.1.1.1, h.1.1.2, h.1.2, ih h.2 (by omega)]

/-- A write below 4096 keeps the canonical form. -/
theorem Memory.write_wf {m : Memory} {a : Nat} (v : Byte) (h : Memory.wf m = true) (ha : a < Config.memSize) :
    Memory.wf (Memory.write m a v) = true := Memory.write_wfFrom v h (Nat.zero_le a) ha

/-- Reset memory is canonical. -/
theorem State.reset_mem_wf : Memory.wf State.reset.mem = true := rfl

/-- `Memory.canonical` gives a canonical memory. -/
theorem Memory.canonical_wf (m : Memory) : Memory.wf (Memory.canonical m) = true := by
  induction m with
  | nil => rfl
  | cons c rest ih =>
    simp only [Memory.canonical, List.foldr_cons]
    split
    · exact Memory.write_wf _ ih ‹_›
    · exact ih

/-- `Memory.canonical` reads as its argument at every address of the space. -/
theorem Memory.read_canonical (m : Memory) {a : Nat} (ha : a < Config.memSize) :
    Memory.read (Memory.canonical m) a = Memory.read m a := by
  induction m with
  | nil => rfl
  | cons c rest ih =>
    obtain ⟨b, v⟩ := c
    simp only [Memory.canonical, List.foldr_cons] at ih ⊢
    by_cases h : b = a
    · subst h
      rw [if_pos ha, Memory.read, if_pos rfl]
      exact Memory.read_write_self b v (Memory.canonical_wf rest)
    · split
      · rw [Memory.read_write_ne _ _ h, ih]; simp [Memory.read, h]
      · rw [ih]; simp [Memory.read, h]

/-- Canonical memories that read the same are the same data. -/
theorem Memory.ext_of_wfFrom {m m' : Memory} {lo : Nat} (h : Memory.wfFrom lo m = true)
    (h' : Memory.wfFrom lo m' = true) (hr : ∀ a, Memory.read m a = Memory.read m' a) : m = m' := by
  induction m generalizing m' lo with
  | nil =>
    cases m' with
    | nil => rfl
    | cons c rest =>
      obtain ⟨b, v⟩ := c
      simp only [Memory.wfFrom, Bool.and_eq_true, decide_eq_true_eq, bne_iff_ne] at h'
      exact absurd (by simpa [Memory.read] using (hr b).symm) h'.1.2
  | cons c rest ih =>
    obtain ⟨b, v⟩ := c
    simp only [Memory.wfFrom, Bool.and_eq_true, decide_eq_true_eq, bne_iff_ne] at h
    cases m' with
    | nil => exact absurd (by simpa [Memory.read] using hr b) h.1.2
    | cons c' rest' =>
      obtain ⟨b', v'⟩ := c'
      simp only [Memory.wfFrom, Bool.and_eq_true, decide_eq_true_eq, bne_iff_ne] at h'
      have hb : b = b' := by
        rcases Nat.lt_trichotomy b b' with hlt | heq | hgt
        · have h1 := hr b
          rw [Memory.read, if_pos rfl, Memory.read, if_neg (by omega), Memory.read_below h'.2 (by omega)] at h1
          exact absurd h1 h.1.2
        · exact heq
        · have h1 := hr b'
          rw [Memory.read, if_neg (by omega), Memory.read_below h.2 (by omega), Memory.read, if_pos rfl] at h1
          exact absurd h1.symm h'.1.2
      subst hb
      have hv : v = v' := by simpa [Memory.read] using hr b
      subst hv
      refine congrArg _ (ih h.2 h'.2 fun a => ?_)
      by_cases ha : b = a
      · subst ha
        rw [Memory.read_below h.2 (Nat.lt_succ_self b), Memory.read_below h'.2 (Nat.lt_succ_self b)]
      · simpa [Memory.read, ha] using hr a

/-! ## Sequences of single-byte accesses -/

theorem memRead_ok {m : Memory} {a : Nat} (h : a < Config.memSize) : memRead m a = .ok (Memory.read m a) := if_pos h

theorem memRead_error {m : Memory} {a : Nat} (h : Config.memSize ≤ a) : memRead m a = .error (.outOfBounds a) :=
  if_neg (Nat.not_lt.mpr h)

theorem memWrite_ok {m : Memory} {a : Nat} (v : Byte) (h : a < Config.memSize) :
    memWrite m a v = .ok (Memory.write m a v) := if_pos h

theorem memWrite_error {m : Memory} {a : Nat} (v : Byte) (h : Config.memSize ≤ a) :
    memWrite m a v = .error (.outOfBounds a) := if_neg (Nat.not_lt.mpr h)

/-- A read inside memory gives its bytes in ascending order. -/
theorem readBytes_ok {m : Memory} {a n : Nat} (h : n = 0 ∨ a + n ≤ Config.memSize) :
    readBytes m a n = .ok ((List.range n).map fun j => Memory.read m (a + j)) := by
  induction n generalizing a with
  | zero => rfl
  | succ n ih =>
    have h' : a + (n + 1) ≤ Config.memSize := by omega
    rw [readBytes, memRead_ok (by omega), ih (Or.inr (by omega))]
    simp only [List.range_succ_eq_map, List.map_cons, List.map_map, Nat.add_zero]
    congr 2
    exact List.map_congr_left fun j _ => by simp only [Function.comp, Nat.succ_eq_add_one]; congr 1; omega

/-- A read that leaves memory reports the first address out of range. -/
theorem readBytes_error {m : Memory} {a n : Nat} (hn : 0 < n) (h : Config.memSize < a + n) :
    readBytes m a n = .error (.outOfBounds (max a Config.memSize)) := by
  induction n generalizing a with
  | zero => omega
  | succ n ih =>
    rw [readBytes]
    by_cases ha : a < Config.memSize
    · rw [memRead_ok ha, ih (by omega) (by omega)]
      simp only [Except.error.injEq, FatalError.outOfBounds.injEq]
      omega
    · rw [memRead_error (Nat.not_lt.mp ha)]
      simp only [Except.error.injEq, FatalError.outOfBounds.injEq]
      omega

/-- What a sequence of writes inside memory does: it completes, keeps the canonical form, leaves every address
outside the sequence alone, and puts byte `j` at `a + j`. -/
theorem writeBytes_ok {m : Memory} {a : Nat} {bs : List Byte} (h : bs = [] ∨ a + bs.length ≤ Config.memSize) :
    ∃ m', writeBytes m a bs = .ok m' ∧
      (∀ c, c < a ∨ a + bs.length ≤ c → Memory.read m' c = Memory.read m c) ∧
      (Memory.wf m = true → Memory.wf m' = true ∧
        ∀ (j : Nat) (hj : j < bs.length), Memory.read m' (a + j) = bs[j]) := by
  induction bs generalizing m a with
  | nil => exact ⟨m, rfl, fun _ _ => rfl, fun hw => ⟨hw, fun j hj => absurd hj (Nat.not_lt_zero j)⟩⟩
  | cons b bs ih =>
    have hlen : a + (bs.length + 1) ≤ Config.memSize := by simpa using h
    obtain ⟨m', hm', hframe, hrest⟩ := ih (m := Memory.write m a b) (a := a + 1) (Or.inr (by omega))
    refine ⟨m', by rw [writeBytes, memWrite_ok b (by omega)]; exact hm', fun c hc => ?_, fun hw => ?_⟩
    · have hc' : c < a ∨ a + (bs.length + 1) ≤ c := by simpa using hc
      rw [hframe c (by omega), Memory.read_write_ne _ _ (by omega)]
    · obtain ⟨hw', hget⟩ := hrest (Memory.write_wf b hw (by omega))
      refine ⟨hw', fun j hj => ?_⟩
      cases j with
      | zero =>
        rw [Nat.add_zero, hframe a (Or.inl (Nat.lt_succ_self a)), Memory.read_write_self a b hw]
        rfl
      | succ j =>
        have := hget j (by simpa using hj)
        rw [show a + (j + 1) = a + 1 + j by omega, this]
        rfl

/-- A sequence of writes that leaves memory reports the first address out of range. -/
theorem writeBytes_error {m : Memory} {a : Nat} {bs : List Byte} (hb : bs ≠ []) (h : Config.memSize < a + bs.length) :
    writeBytes m a bs = .error (.outOfBounds (max a Config.memSize)) := by
  induction bs generalizing m a with
  | nil => exact absurd rfl hb
  | cons b bs ih =>
    have h' : Config.memSize < a + (bs.length + 1) := by simpa using h
    rw [writeBytes]
    by_cases ha : a < Config.memSize
    · rw [memWrite_ok b ha]
      have hbs : bs ≠ [] := by rintro rfl; simp at h' ha; omega
      simp only
      rw [ih hbs (by omega)]
      simp only [Except.error.injEq, FatalError.outOfBounds.injEq]
      omega
    · rw [memWrite_error b (Nat.not_lt.mp ha)]
      simp only [Except.error.injEq, FatalError.outOfBounds.injEq]
      omega

/-- A block write that ends inside memory is the sequence of its single-byte writes (R55). -/
theorem writeBlockBytes_ok {m : Memory} {a : Nat} {bs : List Byte} (h : a + bs.length ≤ Config.memSize) :
    writeBlockBytes m a bs = writeBytes m a bs := if_neg (Nat.not_lt.mpr h)

/-- A block write that ends above memory fails, whatever its length (R55). -/
theorem writeBlockBytes_error {m : Memory} {a : Nat} {bs : List Byte} (h : Config.memSize < a + bs.length) :
    writeBlockBytes m a bs = .error (.outOfBounds (max a Config.memSize)) := if_pos h

/-- The fetch of a word: both bytes in range, or the first address that is not (R53). -/
theorem memReadWord_eq (m : Memory) (a : Nat) :
    memReadWord m a =
      if a + 1 < Config.memSize then .ok (wordOfBytes (Memory.read m a) (Memory.read m (a + 1)))
      else .error (.outOfBounds (max a Config.memSize)) := by
  by_cases h : a + 1 < Config.memSize
  · rw [if_pos h, memReadWord, memRead_ok (by omega), memRead_ok h]
  · rw [if_neg h, memReadWord]
    by_cases ha : a < Config.memSize
    · rw [memRead_ok ha, memRead_error (a := a + 1) (by omega)]
      simp only [Except.error.injEq, FatalError.outOfBounds.injEq]
      omega
    · rw [memRead_error (by omega)]
      simp only [Except.error.injEq, FatalError.outOfBounds.injEq]
      omega

end Sys2Proof.Machine
end

