-- ==== Sys2Proof/Laws/State.lean ====
section
/-!
SUPPORT. The fields of State after each named update: one lemma per field per update, true by rfl.
-/

namespace Sys2Proof.Machine

/-! ### `writeV` -/

@[simp] theorem State.writeV_v (s : State) (r : Reg) (b : Byte) : (s.writeV r b).v = s.v.set r.toNat b r.isLt := rfl
@[simp] theorem State.writeV_I (s : State) (r : Reg) (b : Byte) : (s.writeV r b).I = s.I := rfl
@[simp] theorem State.writeV_pc (s : State) (r : Reg) (b : Byte) : (s.writeV r b).pc = s.pc := rfl
@[simp] theorem State.writeV_stack (s : State) (r : Reg) (b : Byte) : (s.writeV r b).stack = s.stack := rfl
@[simp] theorem State.writeV_sp (s : State) (r : Reg) (b : Byte) : (s.writeV r b).sp = s.sp := rfl
@[simp] theorem State.writeV_dt (s : State) (r : Reg) (b : Byte) : (s.writeV r b).dt = s.dt := rfl
@[simp] theorem State.writeV_st (s : State) (r : Reg) (b : Byte) : (s.writeV r b).st = s.st := rfl
@[simp] theorem State.writeV_mem (s : State) (r : Reg) (b : Byte) : (s.writeV r b).mem = s.mem := rfl
@[simp] theorem State.writeV_display (s : State) (r : Reg) (b : Byte) : (s.writeV r b).display = s.display := rfl
@[simp] theorem State.writeV_kb (s : State) (r : Reg) (b : Byte) : (s.writeV r b).kb = s.kb := rfl
@[simp] theorem State.writeV_fault (s : State) (r : Reg) (b : Byte) : (s.writeV r b).fault = s.fault := rfl
@[simp] theorem State.writeV_started (s : State) (r : Reg) (b : Byte) : (s.writeV r b).started = s.started := rfl
@[simp] theorem State.writeV_free (s : State) (r : Reg) (b : Byte) : (s.writeV r b).free = s.free := rfl
@[simp] theorem State.writeV_hostOps (s : State) (r : Reg) (b : Byte) : (s.writeV r b).hostOps = s.hostOps := rfl

/-! ### `setV` -/

@[simp] theorem State.setV_v (s : State) (w : Vector Byte 16) : (s.setV w).v = w := rfl
@[simp] theorem State.setV_I (s : State) (w : Vector Byte 16) : (s.setV w).I = s.I := rfl
@[simp] theorem State.setV_pc (s : State) (w : Vector Byte 16) : (s.setV w).pc = s.pc := rfl
@[simp] theorem State.setV_stack (s : State) (w : Vector Byte 16) : (s.setV w).stack = s.stack := rfl
@[simp] theorem State.setV_sp (s : State) (w : Vector Byte 16) : (s.setV w).sp = s.sp := rfl
@[simp] theorem State.setV_dt (s : State) (w : Vector Byte 16) : (s.setV w).dt = s.dt := rfl
@[simp] theorem State.setV_st (s : State) (w : Vector Byte 16) : (s.setV w).st = s.st := rfl
@[simp] theorem State.setV_mem (s : State) (w : Vector Byte 16) : (s.setV w).mem = s.mem := rfl
@[simp] theorem State.setV_display (s : State) (w : Vector Byte 16) : (s.setV w).display = s.display := rfl
@[simp] theorem State.setV_kb (s : State) (w : Vector Byte 16) : (s.setV w).kb = s.kb := rfl
@[simp] theorem State.setV_fault (s : State) (w : Vector Byte 16) : (s.setV w).fault = s.fault := rfl
@[simp] theorem State.setV_started (s : State) (w : Vector Byte 16) : (s.setV w).started = s.started := rfl
@[simp] theorem State.setV_free (s : State) (w : Vector Byte 16) : (s.setV w).free = s.free := rfl
@[simp] theorem State.setV_hostOps (s : State) (w : Vector Byte 16) : (s.setV w).hostOps = s.hostOps := rfl

/-! ### `setI` -/

@[simp] theorem State.setI_v (s : State) (w : Word) : (s.setI w).v = s.v := rfl
@[simp] theorem State.setI_I (s : State) (w : Word) : (s.setI w).I = w := rfl
@[simp] theorem State.setI_pc (s : State) (w : Word) : (s.setI w).pc = s.pc := rfl
@[simp] theorem State.setI_stack (s : State) (w : Word) : (s.setI w).stack = s.stack := rfl
@[simp] theorem State.setI_sp (s : State) (w : Word) : (s.setI w).sp = s.sp := rfl
@[simp] theorem State.setI_dt (s : State) (w : Word) : (s.setI w).dt = s.dt := rfl
@[simp] theorem State.setI_st (s : State) (w : Word) : (s.setI w).st = s.st := rfl
@[simp] theorem State.setI_mem (s : State) (w : Word) : (s.setI w).mem = s.mem := rfl
@[simp] theorem State.setI_display (s : State) (w : Word) : (s.setI w).display = s.display := rfl
@[simp] theorem State.setI_kb (s : State) (w : Word) : (s.setI w).kb = s.kb := rfl
@[simp] theorem State.setI_fault (s : State) (w : Word) : (s.setI w).fault = s.fault := rfl
@[simp] theorem State.setI_started (s : State) (w : Word) : (s.setI w).started = s.started := rfl
@[simp] theorem State.setI_free (s : State) (w : Word) : (s.setI w).free = s.free := rfl
@[simp] theorem State.setI_hostOps (s : State) (w : Word) : (s.setI w).hostOps = s.hostOps := rfl

/-! ### `setPc` -/

@[simp] theorem State.setPc_v (s : State) (w : Word) : (s.setPc w).v = s.v := rfl
@[simp] theorem State.setPc_I (s : State) (w : Word) : (s.setPc w).I = s.I := rfl
@[simp] theorem State.setPc_pc (s : State) (w : Word) : (s.setPc w).pc = w := rfl
@[simp] theorem State.setPc_stack (s : State) (w : Word) : (s.setPc w).stack = s.stack := rfl
@[simp] theorem State.setPc_sp (s : State) (w : Word) : (s.setPc w).sp = s.sp := rfl
@[simp] theorem State.setPc_dt (s : State) (w : Word) : (s.setPc w).dt = s.dt := rfl
@[simp] theorem State.setPc_st (s : State) (w : Word) : (s.setPc w).st = s.st := rfl
@[simp] theorem State.setPc_mem (s : State) (w : Word) : (s.setPc w).mem = s.mem := rfl
@[simp] theorem State.setPc_display (s : State) (w : Word) : (s.setPc w).display = s.display := rfl
@[simp] theorem State.setPc_kb (s : State) (w : Word) : (s.setPc w).kb = s.kb := rfl
@[simp] theorem State.setPc_fault (s : State) (w : Word) : (s.setPc w).fault = s.fault := rfl
@[simp] theorem State.setPc_started (s : State) (w : Word) : (s.setPc w).started = s.started := rfl
@[simp] theorem State.setPc_free (s : State) (w : Word) : (s.setPc w).free = s.free := rfl
@[simp] theorem State.setPc_hostOps (s : State) (w : Word) : (s.setPc w).hostOps = s.hostOps := rfl

/-! ### `setDt` -/

@[simp] theorem State.setDt_v (s : State) (b : Byte) : (s.setDt b).v = s.v := rfl
@[simp] theorem State.setDt_I (s : State) (b : Byte) : (s.setDt b).I = s.I := rfl
@[simp] theorem State.setDt_pc (s : State) (b : Byte) : (s.setDt b).pc = s.pc := rfl
@[simp] theorem State.setDt_stack (s : State) (b : Byte) : (s.setDt b).stack = s.stack := rfl
@[simp] theorem State.setDt_sp (s : State) (b : Byte) : (s.setDt b).sp = s.sp := rfl
@[simp] theorem State.setDt_dt (s : State) (b : Byte) : (s.setDt b).dt = b := rfl
@[simp] theorem State.setDt_st (s : State) (b : Byte) : (s.setDt b).st = s.st := rfl
@[simp] theorem State.setDt_mem (s : State) (b : Byte) : (s.setDt b).mem = s.mem := rfl
@[simp] theorem State.setDt_display (s : State) (b : Byte) : (s.setDt b).display = s.display := rfl
@[simp] theorem State.setDt_kb (s : State) (b : Byte) : (s.setDt b).kb = s.kb := rfl
@[simp] theorem State.setDt_fault (s : State) (b : Byte) : (s.setDt b).fault = s.fault := rfl
@[simp] theorem State.setDt_started (s : State) (b : Byte) : (s.setDt b).started = s.started := rfl
@[simp] theorem State.setDt_free (s : State) (b : Byte) : (s.setDt b).free = s.free := rfl
@[simp] theorem State.setDt_hostOps (s : State) (b : Byte) : (s.setDt b).hostOps = s.hostOps := rfl

/-! ### `setSt` -/

@[simp] theorem State.setSt_v (s : State) (b : Byte) : (s.setSt b).v = s.v := rfl
@[simp] theorem State.setSt_I (s : State) (b : Byte) : (s.setSt b).I = s.I := rfl
@[simp] theorem State.setSt_pc (s : State) (b : Byte) : (s.setSt b).pc = s.pc := rfl
@[simp] theorem State.setSt_stack (s : State) (b : Byte) : (s.setSt b).stack = s.stack := rfl
@[simp] theorem State.setSt_sp (s : State) (b : Byte) : (s.setSt b).sp = s.sp := rfl
@[simp] theorem State.setSt_dt (s : State) (b : Byte) : (s.setSt b).dt = s.dt := rfl
@[simp] theorem State.setSt_st (s : State) (b : Byte) : (s.setSt b).st = b := rfl
@[simp] theorem State.setSt_mem (s : State) (b : Byte) : (s.setSt b).mem = s.mem := rfl
@[simp] theorem State.setSt_display (s : State) (b : Byte) : (s.setSt b).display = s.display := rfl
@[simp] theorem State.setSt_kb (s : State) (b : Byte) : (s.setSt b).kb = s.kb := rfl
@[simp] theorem State.setSt_fault (s : State) (b : Byte) : (s.setSt b).fault = s.fault := rfl
@[simp] theorem State.setSt_started (s : State) (b : Byte) : (s.setSt b).started = s.started := rfl
@[simp] theorem State.setSt_free (s : State) (b : Byte) : (s.setSt b).free = s.free := rfl
@[simp] theorem State.setSt_hostOps (s : State) (b : Byte) : (s.setSt b).hostOps = s.hostOps := rfl

/-! ### `setMem` -/

@[simp] theorem State.setMem_v (s : State) (m : Memory) : (s.setMem m).v = s.v := rfl
@[simp] theorem State.setMem_I (s : State) (m : Memory) : (s.setMem m).I = s.I := rfl
@[simp] theorem State.setMem_pc (s : State) (m : Memory) : (s.setMem m).pc = s.pc := rfl
@[simp] theorem State.setMem_stack (s : State) (m : Memory) : (s.setMem m).stack = s.stack := rfl
@[simp] theorem State.setMem_sp (s : State) (m : Memory) : (s.setMem m).sp = s.sp := rfl
@[simp] theorem State.setMem_dt (s : State) (m : Memory) : (s.setMem m).dt = s.dt := rfl
@[simp] theorem State.setMem_st (s : State) (m : Memory) : (s.setMem m).st = s.st := rfl
@[simp] theorem State.setMem_mem (s : State) (m : Memory) : (s.setMem m).mem = m := rfl
@[simp] theorem State.setMem_display (s : State) (m : Memory) : (s.setMem m).display = s.display := rfl
@[simp] theorem State.setMem_kb (s : State) (m : Memory) : (s.setMem m).kb = s.kb := rfl
@[simp] theorem State.setMem_fault (s : State) (m : Memory) : (s.setMem m).fault = s.fault := rfl
@[simp] theorem State.setMem_started (s : State) (m : Memory) : (s.setMem m).started = s.started := rfl
@[simp] theorem State.setMem_free (s : State) (m : Memory) : (s.setMem m).free = s.free := rfl
@[simp] theorem State.setMem_hostOps (s : State) (m : Memory) : (s.setMem m).hostOps = s.hostOps := rfl

/-! ### `setDisplay` -/

@[simp] theorem State.setDisplay_v (s : State) (d : Display) : (s.setDisplay d).v = s.v := rfl
@[simp] theorem State.setDisplay_I (s : State) (d : Display) : (s.setDisplay d).I = s.I := rfl
@[simp] theorem State.setDisplay_pc (s : State) (d : Display) : (s.setDisplay d).pc = s.pc := rfl
@[simp] theorem State.setDisplay_stack (s : State) (d : Display) : (s.setDisplay d).stack = s.stack := rfl
@[simp] theorem State.setDisplay_sp (s : State) (d : Display) : (s.setDisplay d).sp = s.sp := rfl
@[simp] theorem State.setDisplay_dt (s : State) (d : Display) : (s.setDisplay d).dt = s.dt := rfl
@[simp] theorem State.setDisplay_st (s : State) (d : Display) : (s.setDisplay d).st = s.st := rfl
@[simp] theorem State.setDisplay_mem (s : State) (d : Display) : (s.setDisplay d).mem = s.mem := rfl
@[simp] theorem State.setDisplay_display (s : State) (d : Display) : (s.setDisplay d).display = d := rfl
@[simp] theorem State.setDisplay_kb (s : State) (d : Display) : (s.setDisplay d).kb = s.kb := rfl
@[simp] theorem State.setDisplay_fault (s : State) (d : Display) : (s.setDisplay d).fault = s.fault := rfl
@[simp] theorem State.setDisplay_started (s : State) (d : Display) : (s.setDisplay d).started = s.started := rfl
@[simp] theorem State.setDisplay_free (s : State) (d : Display) : (s.setDisplay d).free = s.free := rfl
@[simp] theorem State.setDisplay_hostOps (s : State) (d : Display) : (s.setDisplay d).hostOps = s.hostOps := rfl

/-! ### `setKb` -/

@[simp] theorem State.setKb_v (s : State) (k : Keyboard) : (s.setKb k).v = s.v := rfl
@[simp] theorem State.setKb_I (s : State) (k : Keyboard) : (s.setKb k).I = s.I := rfl
@[simp] theorem State.setKb_pc (s : State) (k : Keyboard) : (s.setKb k).pc = s.pc := rfl
@[simp] theorem State.setKb_stack (s : State) (k : Keyboard) : (s.setKb k).stack = s.stack := rfl
@[simp] theorem State.setKb_sp (s : State) (k : Keyboard) : (s.setKb k).sp = s.sp := rfl
@[simp] theorem State.setKb_dt (s : State) (k : Keyboard) : (s.setKb k).dt = s.dt := rfl
@[simp] theorem State.setKb_st (s : State) (k : Keyboard) : (s.setKb k).st = s.st := rfl
@[simp] theorem State.setKb_mem (s : State) (k : Keyboard) : (s.setKb k).mem = s.mem := rfl
@[simp] theorem State.setKb_display (s : State) (k : Keyboard) : (s.setKb k).display = s.display := rfl
@[simp] theorem State.setKb_kb (s : State) (k : Keyboard) : (s.setKb k).kb = k := rfl
@[simp] theorem State.setKb_fault (s : State) (k : Keyboard) : (s.setKb k).fault = s.fault := rfl
@[simp] theorem State.setKb_started (s : State) (k : Keyboard) : (s.setKb k).started = s.started := rfl
@[simp] theorem State.setKb_free (s : State) (k : Keyboard) : (s.setKb k).free = s.free := rfl
@[simp] theorem State.setKb_hostOps (s : State) (k : Keyboard) : (s.setKb k).hostOps = s.hostOps := rfl

/-! ### `countFree` -/

@[simp] theorem State.countFree_v (s : State) : (s.countFree).v = s.v := rfl
@[simp] theorem State.countFree_I (s : State) : (s.countFree).I = s.I := rfl
@[simp] theorem State.countFree_pc (s : State) : (s.countFree).pc = s.pc := rfl
@[simp] theorem State.countFree_stack (s : State) : (s.countFree).stack = s.stack := rfl
@[simp] theorem State.countFree_sp (s : State) : (s.countFree).sp = s.sp := rfl
@[simp] theorem State.countFree_dt (s : State) : (s.countFree).dt = s.dt := rfl
@[simp] theorem State.countFree_st (s : State) : (s.countFree).st = s.st := rfl
@[simp] theorem State.countFree_mem (s : State) : (s.countFree).mem = s.mem := rfl
@[simp] theorem State.countFree_display (s : State) : (s.countFree).display = s.display := rfl
@[simp] theorem State.countFree_kb (s : State) : (s.countFree).kb = s.kb := rfl
@[simp] theorem State.countFree_fault (s : State) : (s.countFree).fault = s.fault := rfl
@[simp] theorem State.countFree_started (s : State) : (s.countFree).started = s.started := rfl
@[simp] theorem State.countFree_free (s : State) : (s.countFree).free = s.free + 1 := rfl
@[simp] theorem State.countFree_hostOps (s : State) : (s.countFree).hostOps = s.hostOps := rfl

/-! ### `markStarted` -/

@[simp] theorem State.markStarted_v (s : State) : (s.markStarted).v = s.v := rfl
@[simp] theorem State.markStarted_I (s : State) : (s.markStarted).I = s.I := rfl
@[simp] theorem State.markStarted_pc (s : State) : (s.markStarted).pc = s.pc := rfl
@[simp] theorem State.markStarted_stack (s : State) : (s.markStarted).stack = s.stack := rfl
@[simp] theorem State.markStarted_sp (s : State) : (s.markStarted).sp = s.sp := rfl
@[simp] theorem State.markStarted_dt (s : State) : (s.markStarted).dt = s.dt := rfl
@[simp] theorem State.markStarted_st (s : State) : (s.markStarted).st = s.st := rfl
@[simp] theorem State.markStarted_mem (s : State) : (s.markStarted).mem = s.mem := rfl
@[simp] theorem State.markStarted_display (s : State) : (s.markStarted).display = s.display := rfl
@[simp] theorem State.markStarted_kb (s : State) : (s.markStarted).kb = s.kb := rfl
@[simp] theorem State.markStarted_fault (s : State) : (s.markStarted).fault = s.fault := rfl
@[simp] theorem State.markStarted_started (s : State) : (s.markStarted).started = true := rfl
@[simp] theorem State.markStarted_free (s : State) : (s.markStarted).free = s.free := rfl
@[simp] theorem State.markStarted_hostOps (s : State) : (s.markStarted).hostOps = s.hostOps := rfl

/-! ### `setHostOps` -/

@[simp] theorem State.setHostOps_v (s : State) (l : List HostOp) : (s.setHostOps l).v = s.v := rfl
@[simp] theorem State.setHostOps_I (s : State) (l : List HostOp) : (s.setHostOps l).I = s.I := rfl
@[simp] theorem State.setHostOps_pc (s : State) (l : List HostOp) : (s.setHostOps l).pc = s.pc := rfl
@[simp] theorem State.setHostOps_stack (s : State) (l : List HostOp) : (s.setHostOps l).stack = s.stack := rfl
@[simp] theorem State.setHostOps_sp (s : State) (l : List HostOp) : (s.setHostOps l).sp = s.sp := rfl
@[simp] theorem State.setHostOps_dt (s : State) (l : List HostOp) : (s.setHostOps l).dt = s.dt := rfl
@[simp] theorem State.setHostOps_st (s : State) (l : List HostOp) : (s.setHostOps l).st = s.st := rfl
@[simp] theorem State.setHostOps_mem (s : State) (l : List HostOp) : (s.setHostOps l).mem = s.mem := rfl
@[simp] theorem State.setHostOps_display (s : State) (l : List HostOp) : (s.setHostOps l).display = s.display := rfl
@[simp] theorem State.setHostOps_kb (s : State) (l : List HostOp) : (s.setHostOps l).kb = s.kb := rfl
@[simp] theorem State.setHostOps_fault (s : State) (l : List HostOp) : (s.setHostOps l).fault = s.fault := rfl
@[simp] theorem State.setHostOps_started (s : State) (l : List HostOp) : (s.setHostOps l).started = s.started := rfl
@[simp] theorem State.setHostOps_free (s : State) (l : List HostOp) : (s.setHostOps l).free = s.free := rfl
@[simp] theorem State.setHostOps_hostOps (s : State) (l : List HostOp) : (s.setHostOps l).hostOps = l := rfl

/-! ### `advancePc` -/

@[simp] theorem State.advancePc_v (s : State) : (s.advancePc).v = s.v := rfl
@[simp] theorem State.advancePc_I (s : State) : (s.advancePc).I = s.I := rfl
@[simp] theorem State.advancePc_pc (s : State) : (s.advancePc).pc = s.pc + 2 := rfl
@[simp] theorem State.advancePc_stack (s : State) : (s.advancePc).stack = s.stack := rfl
@[simp] theorem State.advancePc_sp (s : State) : (s.advancePc).sp = s.sp := rfl
@[simp] theorem State.advancePc_dt (s : State) : (s.advancePc).dt = s.dt := rfl
@[simp] theorem State.advancePc_st (s : State) : (s.advancePc).st = s.st := rfl
@[simp] theorem State.advancePc_mem (s : State) : (s.advancePc).mem = s.mem := rfl
@[simp] theorem State.advancePc_display (s : State) : (s.advancePc).display = s.display := rfl
@[simp] theorem State.advancePc_kb (s : State) : (s.advancePc).kb = s.kb := rfl
@[simp] theorem State.advancePc_fault (s : State) : (s.advancePc).fault = s.fault := rfl
@[simp] theorem State.advancePc_started (s : State) : (s.advancePc).started = s.started := rfl
@[simp] theorem State.advancePc_free (s : State) : (s.advancePc).free = s.free := rfl
@[simp] theorem State.advancePc_hostOps (s : State) : (s.advancePc).hostOps = s.hostOps := rfl

/-! ### `rewind` -/

@[simp] theorem State.rewind_v (s : State) : (s.rewind).v = s.v := rfl
@[simp] theorem State.rewind_I (s : State) : (s.rewind).I = s.I := rfl
@[simp] theorem State.rewind_pc (s : State) : (s.rewind).pc = s.pc - 2 := rfl
@[simp] theorem State.rewind_stack (s : State) : (s.rewind).stack = s.stack := rfl
@[simp] theorem State.rewind_sp (s : State) : (s.rewind).sp = s.sp := rfl
@[simp] theorem State.rewind_dt (s : State) : (s.rewind).dt = s.dt := rfl
@[simp] theorem State.rewind_st (s : State) : (s.rewind).st = s.st := rfl
@[simp] theorem State.rewind_mem (s : State) : (s.rewind).mem = s.mem := rfl
@[simp] theorem State.rewind_display (s : State) : (s.rewind).display = s.display := rfl
@[simp] theorem State.rewind_kb (s : State) : (s.rewind).kb = s.kb := rfl
@[simp] theorem State.rewind_fault (s : State) : (s.rewind).fault = s.fault := rfl
@[simp] theorem State.rewind_started (s : State) : (s.rewind).started = s.started := rfl
@[simp] theorem State.rewind_free (s : State) : (s.rewind).free = s.free := rfl
@[simp] theorem State.rewind_hostOps (s : State) : (s.rewind).hostOps = s.hostOps := rfl

/-! ### `skipIf`: only pc can change -/

@[simp] theorem State.skipIf_v (s : State) (c : Bool) : (s.skipIf c).v = s.v := by
  unfold State.skipIf; split <;> rfl
@[simp] theorem State.skipIf_I (s : State) (c : Bool) : (s.skipIf c).I = s.I := by
  unfold State.skipIf; split <;> rfl
@[simp] theorem State.skipIf_pc (s : State) (c : Bool) : (s.skipIf c).pc = if c then s.pc + 2 else s.pc := by
  unfold State.skipIf; split <;> rfl
@[simp] theorem State.skipIf_stack (s : State) (c : Bool) : (s.skipIf c).stack = s.stack := by
  unfold State.skipIf; split <;> rfl
@[simp] theorem State.skipIf_sp (s : State) (c : Bool) : (s.skipIf c).sp = s.sp := by
  unfold State.skipIf; split <;> rfl
@[simp] theorem State.skipIf_dt (s : State) (c : Bool) : (s.skipIf c).dt = s.dt := by
  unfold State.skipIf; split <;> rfl
@[simp] theorem State.skipIf_st (s : State) (c : Bool) : (s.skipIf c).st = s.st := by
  unfold State.skipIf; split <;> rfl
@[simp] theorem State.skipIf_mem (s : State) (c : Bool) : (s.skipIf c).mem = s.mem := by
  unfold State.skipIf; split <;> rfl
@[simp] theorem State.skipIf_display (s : State) (c : Bool) : (s.skipIf c).display = s.display := by
  unfold State.skipIf; split <;> rfl
@[simp] theorem State.skipIf_kb (s : State) (c : Bool) : (s.skipIf c).kb = s.kb := by
  unfold State.skipIf; split <;> rfl
@[simp] theorem State.skipIf_fault (s : State) (c : Bool) : (s.skipIf c).fault = s.fault := by
  unfold State.skipIf; split <;> rfl
@[simp] theorem State.skipIf_started (s : State) (c : Bool) : (s.skipIf c).started = s.started := by
  unfold State.skipIf; split <;> rfl
@[simp] theorem State.skipIf_free (s : State) (c : Bool) : (s.skipIf c).free = s.free := by
  unfold State.skipIf; split <;> rfl
@[simp] theorem State.skipIf_hostOps (s : State) (c : Bool) : (s.skipIf c).hostOps = s.hostOps := by
  unfold State.skipIf; split <;> rfl

/-! ### `writeResultFlag`: only the registers change -/

@[simp] theorem State.writeResultFlag_I (s : State) (x : Reg) (r : Byte × Bool) :
    (s.writeResultFlag x r).I = s.I := rfl
@[simp] theorem State.writeResultFlag_pc (s : State) (x : Reg) (r : Byte × Bool) :
    (s.writeResultFlag x r).pc = s.pc := rfl
@[simp] theorem State.writeResultFlag_stack (s : State) (x : Reg) (r : Byte × Bool) :
    (s.writeResultFlag x r).stack = s.stack := rfl
@[simp] theorem State.writeResultFlag_sp (s : State) (x : Reg) (r : Byte × Bool) :
    (s.writeResultFlag x r).sp = s.sp := rfl
@[simp] theorem State.writeResultFlag_dt (s : State) (x : Reg) (r : Byte × Bool) :
    (s.writeResultFlag x r).dt = s.dt := rfl
@[simp] theorem State.writeResultFlag_st (s : State) (x : Reg) (r : Byte × Bool) :
    (s.writeResultFlag x r).st = s.st := rfl
@[simp] theorem State.writeResultFlag_mem (s : State) (x : Reg) (r : Byte × Bool) :
    (s.writeResultFlag x r).mem = s.mem := rfl
@[simp] theorem State.writeResultFlag_display (s : State) (x : Reg) (r : Byte × Bool) :
    (s.writeResultFlag x r).display = s.display := rfl
@[simp] theorem State.writeResultFlag_kb (s : State) (x : Reg) (r : Byte × Bool) :
    (s.writeResultFlag x r).kb = s.kb := rfl
@[simp] theorem State.writeResultFlag_fault (s : State) (x : Reg) (r : Byte × Bool) :
    (s.writeResultFlag x r).fault = s.fault := rfl
@[simp] theorem State.writeResultFlag_started (s : State) (x : Reg) (r : Byte × Bool) :
    (s.writeResultFlag x r).started = s.started := rfl
@[simp] theorem State.writeResultFlag_free (s : State) (x : Reg) (r : Byte × Bool) :
    (s.writeResultFlag x r).free = s.free := rfl
@[simp] theorem State.writeResultFlag_hostOps (s : State) (x : Reg) (r : Byte × Bool) :
    (s.writeResultFlag x r).hostOps = s.hostOps := rfl

/-! ### Reading a register after an update -/

/-- A register write reaches its register and no other (R20). -/
@[simp] theorem State.readV_writeV (s : State) (r q : Reg) (b : Byte) :
    (s.writeV r b).readV q = if r = q then b else s.readV q := by
  simp [State.writeV, State.readV, Vector.getElem_set, BitVec.toNat_inj]

/-- Two states with the same register file read the same. -/
theorem State.readV_congr {s t : State} (h : t.v = s.v) (q : Reg) : t.readV q = s.readV q := by
  simp [State.readV, h]

@[simp] theorem State.readV_setI (s : State) (w : Word) (q : Reg) : (s.setI w).readV q = s.readV q := rfl
@[simp] theorem State.readV_setPc (s : State) (w : Word) (q : Reg) : (s.setPc w).readV q = s.readV q := rfl
@[simp] theorem State.readV_setDt (s : State) (b : Byte) (q : Reg) : (s.setDt b).readV q = s.readV q := rfl
@[simp] theorem State.readV_setSt (s : State) (b : Byte) (q : Reg) : (s.setSt b).readV q = s.readV q := rfl
@[simp] theorem State.readV_setMem (s : State) (m : Memory) (q : Reg) : (s.setMem m).readV q = s.readV q := rfl
@[simp] theorem State.readV_setDisplay (s : State) (d : Display) (q : Reg) : (s.setDisplay d).readV q = s.readV q := rfl
@[simp] theorem State.readV_setKb (s : State) (k : Keyboard) (q : Reg) : (s.setKb k).readV q = s.readV q := rfl
@[simp] theorem State.readV_countFree (s : State) (q : Reg) : (s.countFree).readV q = s.readV q := rfl
@[simp] theorem State.readV_markStarted (s : State) (q : Reg) : (s.markStarted).readV q = s.readV q := rfl
@[simp] theorem State.readV_setHostOps (s : State) (l : List HostOp) (q : Reg) : (s.setHostOps l).readV q = s.readV q := rfl
@[simp] theorem State.readV_advancePc (s : State) (q : Reg) : (s.advancePc).readV q = s.readV q := rfl
@[simp] theorem State.readV_rewind (s : State) (q : Reg) : (s.rewind).readV q = s.readV q := rfl

@[simp] theorem State.readV_skipIf (s : State) (c : Bool) (q : Reg) : (s.skipIf c).readV q = s.readV q :=
  State.readV_congr (State.skipIf_v s c) q

/-- VF holds the flag whatever x is; another x holds the result (R111). -/
theorem State.readV_writeResultFlag (s : State) (x q : Reg) (r : Byte × Bool) :
    (s.writeResultFlag x r).readV q = if VF = q then flagByte r.2 else if x = q then r.1 else s.readV q := by
  simp [State.writeResultFlag]

end Sys2Proof.Machine
end

