-- ==== Sys2Proof/Laws/Ops.lean ====
section
/-!
SUPPORT. For each shared operation, once, everything it can do: the call stack, taking a fatal error, the end of an
instruction, the fetch, the loads and stores of registers, one step.
-/

namespace Sys2Proof.Machine

/-- A push below sixteen addresses completes: the address at the old top, sp one more, nothing else (R102). -/
theorem push_ok {s : State} (ra : Word) (h : s.sp.val < 16) :
    s.push ra = .ok { s with stack := s.stack.set s.sp.val ra h, sp := ⟨s.sp.val + 1, Nat.succ_lt_succ h⟩ } := dif_pos h

/-- A push with sixteen held overflows (R176). -/
theorem push_error {s : State} (ra : Word) (h : ¬ s.sp.val < 16) : s.push ra = .error .stackOverflow := dif_neg h

/-- Everything a push can do. -/
theorem push_cases {s : State} {ra : Word} {r : Except FatalError State} (hr : s.push ra = r) :
    (∃ h : s.sp.val < 16, r = .ok { s with
      stack := s.stack.set s.sp.val ra h, sp := ⟨s.sp.val + 1, Nat.succ_lt_succ h⟩ }) ∨
    (s.sp.val = 16 ∧ r = .error .stackOverflow) := by
  by_cases h : s.sp.val < 16
  · exact .inl ⟨h, by rw [← hr, push_ok ra h]⟩
  · exact .inr ⟨by omega, by rw [← hr, push_error ra h]⟩

/-- Everything a pop can do. -/
theorem pop_cases {s : State} {r : Except FatalError (Word × State)} (hr : s.pop = r) :
    (s.sp.val = 0 ∧ r = .error .stackUnderflow) ∨
    (∃ (h : s.sp.val - 1 < 16) (h' : s.sp.val - 1 < 17), s.sp.val ≠ 0 ∧
      r = .ok (s.stack[s.sp.val - 1], { s with sp := ⟨s.sp.val - 1, h'⟩ })) := by
  by_cases h : s.sp.val = 0
  · exact .inl ⟨h, by rw [← hr, State.pop, if_pos h]⟩
  · exact .inr ⟨by omega, by omega, h, by rw [← hr, State.pop, if_neg h]⟩

/-- A dead state's fault record. -/
@[simp] theorem deadState_fault (r : FaultRecord) (s : State) : (deadState r s).fault = some r := rfl
@[simp] theorem deadState_started (r : FaultRecord) (s : State) : (deadState r s).started = s.started := rfl
@[simp] theorem deadState_free (r : FaultRecord) (s : State) : (deadState r s).free = s.free + 1 := rfl
@[simp] theorem deadState_hostOps (r : FaultRecord) (s : State) : (deadState r s).hostOps = s.hostOps := rfl

/-- A dead state's memory has the canonical form, whatever it holds. -/
theorem deadState_mem_wf (r : FaultRecord) (s : State) : Memory.wf (deadState r s).mem = true :=
  Memory.canonical_wf _

/-- Taking a fatal error answers a next state: the dead state with its record (R174). -/
theorem takeFatal_eq (e : FatalError) (ia op : Option Word) (s : State) :
    takeFatal e ia op s = .next (deadState (e.record ia op) s) := rfl

/-- Everything the end of an instruction can do: its own next state, or the error taken at pc - 2. -/
theorem complete_cases {op : Word} {s : State} {r : Except FatalError State} {o : Answer} (h : complete op s r = o) :
    (∃ t, r = .ok t ∧ o = .next t) ∨
    (∃ e, r = .error e ∧ o = .next (deadState (e.record (some (s.pc - 2)) (some op)) s)) := by
  cases r with
  | ok t => exact .inl ⟨t, rfl, h.symm⟩
  | error e => exact .inr ⟨e, rfl, h.symm⟩

/-- What a run of register writes leaves: the bytes in the registers named, the others unchanged (R135). -/
theorem getElem_writeRegs (bs : List Byte) (j : Nat) (v : Vector Byte 16) (q : Nat) (hq : q < 16) :
    (writeRegs j bs v)[q] = if h : j ≤ q ∧ q - j < bs.length then bs[q - j]'h.2 else v[q] := by
  induction bs generalizing j v with
  | nil => simp [writeRegs]
  | cons b bs ih =>
    rw [writeRegs, ih]
    by_cases h1 : j = q
    · subst h1
      simp
    · by_cases h2 : j + 1 ≤ q ∧ q - (j + 1) < bs.length
      · have h3 : j ≤ q ∧ q - j < (b :: bs).length := by simp; omega
        rw [dif_pos h2, dif_pos h3]
        have h4 : q - j = (q - (j + 1)) + 1 := by omega
        simp only [h4, List.getElem_cons_succ]
      · have h3 : ¬ (j ≤ q ∧ q - j < (b :: bs).length) := by simp; omega
        rw [dif_neg h2, dif_neg h3, Vector.getElem_setIfInBounds_ne hq h1]

/-- Register `j` stands at place `j` of the registers stored, and there are x + 1 of them (R134). -/
theorem regsThrough_length (s : State) (x : Reg) : (regsThrough s x).length = x.toNat + 1 := by
  have := x.isLt
  simp [regsThrough]
  omega

theorem getElem_regsThrough (s : State) (x : Reg) (j : Nat) (hj : j < (regsThrough s x).length) :
    (regsThrough s x)[j] = s.v[j]'(by have := x.isLt; have := regsThrough_length s x; omega) := by
  simp [regsThrough]

/-- The fetch answers the big-endian word at pc, or the first address of it out of range (R40, R53). -/
theorem fetchWord_eq (s : State) :
    fetchWord s =
      if s.pc.toNat + 1 < Config.memSize then
        .ok (wordOfBytes (Memory.read s.mem s.pc.toNat) (Memory.read s.mem (s.pc.toNat + 1)))
      else .error (.outOfBounds (max s.pc.toNat Config.memSize)) := memReadWord_eq _ _

/-- Everything the CPU's step can do. -/
theorem cpuStep_cases {s : State} {o : Answer} (h : cpuStep s = o) :
    (∃ r, s.fault = some r ∧ o = .next s) ∨
    (s.fault = none ∧ ∃ e, fetchWord s = .error e ∧
      o = .next (deadState (e.record (some s.pc) none) s.markStarted)) ∨
    (s.fault = none ∧ ∃ op e, fetchWord s = .ok op ∧ decodeWord op = .error e ∧
      o = .next (deadState (FatalError.unknownOpcode.record (some s.pc) (some op)) s.markStarted)) ∨
    (s.fault = none ∧ ∃ op i, fetchWord s = .ok op ∧ decodeWord op = .ok i ∧
      o = exec i s.markStarted.advancePc) := by
  have hf : fetchWord s.markStarted = fetchWord s := rfl
  rw [cpuStep, hf] at h
  cases hfault : s.fault with
  | some r => rw [hfault] at h; exact .inl ⟨r, rfl, h.symm⟩
  | none =>
    rw [hfault] at h
    cases hw : fetchWord s with
    | error e => rw [hw] at h; exact .inr (.inl ⟨rfl, e, rfl, h.symm⟩)
    | ok op =>
      rw [hw] at h
      cases hd : decodeWord op with
      | error e => simp only [hd] at h; exact .inr (.inr (.inl ⟨rfl, op, e, rfl, hd, h.symm⟩))
      | ok i => simp only [hd] at h; exact .inr (.inr (.inr ⟨rfl, op, i, rfl, hd, h.symm⟩))

/-- A step with no host operation to come is the CPU's. -/
theorem step_of_nil {s : State} (h : s.hostOps = []) : step s = cpuStep s := by rw [step, h]

/-- A step with one to come is that operation on the state without it. -/
theorem step_of_cons {s : State} {op : HostOp} {rest : List HostOp} (h : s.hostOps = op :: rest) :
    step s = runHostOp cpuStep op (s.setHostOps rest) := by rw [step, h]

/-- What a block write by the host does (R55): inside memory it completes, else the fatal error is taken. -/
theorem writeBlock_ok {s : State} {a : Nat} {bs : List Byte} {m : Memory} (h : writeBlockBytes s.mem a bs = .ok m) :
    writeBlock a bs s = .next (s.setMem m) := by rw [writeBlock, h]

theorem writeBlock_error {s : State} {a : Nat} {bs : List Byte} {e : FatalError}
    (h : writeBlockBytes s.mem a bs = .error e) :
    writeBlock a bs s = .next (deadState (e.record none none) s) := by rw [writeBlock, h]; rfl

end Sys2Proof.Machine
end

