-- ==== Sys2Proof/Laws/PerInstr.lean ====
section
/-!
SUPPORT. One law per instruction: its encoding lies in its row of the opcode map, `w AND mask = match`, with the mask
and match columns of 30_encoding.md R75 copied from the table.
-/

namespace Sys2Proof.Laws.TableMatch

/-- The mask column of R75. -/
def mask : Instr → Word
  | .cls => 0xFFFF#16
  | .ret => 0xFFFF#16
  | .jp _ => 0xF000#16
  | .call _ => 0xF000#16
  | .seImm _ _ => 0xF000#16
  | .sneImm _ _ => 0xF000#16
  | .seReg _ _ => 0xF000#16
  | .ldImm _ _ => 0xF000#16
  | .addImm _ _ => 0xF000#16
  | .ldReg _ _ => 0xF00F#16
  | .orReg _ _ => 0xF00F#16
  | .andReg _ _ => 0xF00F#16
  | .xorReg _ _ => 0xF00F#16
  | .addReg _ _ => 0xF00F#16
  | .subReg _ _ => 0xF00F#16
  | .shr _ _ => 0xF00F#16
  | .subn _ _ => 0xF00F#16
  | .shl _ _ => 0xF00F#16
  | .sneReg _ _ => 0xF000#16
  | .ldI _ => 0xF000#16
  | .rnd _ _ => 0xF000#16
  | .drw _ _ _ => 0xF000#16
  | .skp _ => 0xF0FF#16
  | .sknp _ => 0xF0FF#16
  | .ldVxDt _ => 0xF0FF#16
  | .ldDtVx _ => 0xF0FF#16
  | .ldStVx _ => 0xF0FF#16
  | .addI _ => 0xF0FF#16
  | .ldVxK _ => 0xF0FF#16
  | .ldF _ => 0xF0FF#16
  | .ldB _ => 0xF0FF#16
  | .storeRegs _ => 0xF0FF#16
  | .loadRegs _ => 0xF0FF#16

/-- The match column of R75. -/
def pattern : Instr → Word
  | .cls => 0x00E0#16
  | .ret => 0x00EE#16
  | .jp _ => 0x1000#16
  | .call _ => 0x2000#16
  | .seImm _ _ => 0x3000#16
  | .sneImm _ _ => 0x4000#16
  | .seReg _ _ => 0x5000#16
  | .ldImm _ _ => 0x6000#16
  | .addImm _ _ => 0x7000#16
  | .ldReg _ _ => 0x8000#16
  | .orReg _ _ => 0x8001#16
  | .andReg _ _ => 0x8002#16
  | .xorReg _ _ => 0x8003#16
  | .addReg _ _ => 0x8004#16
  | .subReg _ _ => 0x8005#16
  | .shr _ _ => 0x8006#16
  | .subn _ _ => 0x8007#16
  | .shl _ _ => 0x800E#16
  | .sneReg _ _ => 0x9000#16
  | .ldI _ => 0xA000#16
  | .rnd _ _ => 0xC000#16
  | .drw _ _ _ => 0xD000#16
  | .skp _ => 0xE09E#16
  | .sknp _ => 0xE0A1#16
  | .ldVxDt _ => 0xF007#16
  | .ldDtVx _ => 0xF015#16
  | .ldStVx _ => 0xF018#16
  | .addI _ => 0xF01E#16
  | .ldVxK _ => 0xF00A#16
  | .ldF _ => 0xF029#16
  | .ldB _ => 0xF033#16
  | .storeRegs _ => 0xF055#16
  | .loadRegs _ => 0xF065#16

/-- "a word w selects the row when `w AND mask = match`" (R75). -/
def Statement (i : Instr) : Prop := encode i &&& mask i = pattern i

/-- A word of format `A` under the mask 0xF000. -/
theorem of_a (n3 : Nibble) (nnn : Addr) : encodeA n3 nnn &&& 0xF000#16 = encodeA n3 0#12 := by
  have h := encodeA_and n3 0xF#4 nnn 0#12
  rwa [and_ones4, BitVec.and_zero] at h

/-- A word of format `XK` under the mask 0xF000. -/
theorem of_xk (n3 : Nibble) (x : Reg) (kk : Byte) : encodeXK n3 x kk &&& 0xF000#16 = encodeXK n3 0#4 0#8 := by
  have h := encodeXK_and n3 0xF#4 x 0#4 kk 0#8
  rwa [and_ones4, BitVec.and_zero, BitVec.and_zero] at h

/-- A word of format `X` under the mask 0xF0FF. -/
theorem of_x (n3 : Nibble) (x : Reg) (kk : Byte) : encodeXK n3 x kk &&& 0xF0FF#16 = encodeXK n3 0#4 kk := by
  have h := encodeXK_and n3 0xF#4 x 0#4 kk 0xFF#8
  rwa [and_ones4, BitVec.and_zero, and_ones8] at h

/-- A word of format `XY` of families 0x5 and 0x9, or `XYN`, under the mask 0xF000. -/
theorem of_xyn (n3 : Nibble) (x y : Reg) (n : Nibble) :
    encodeXYN n3 x y n &&& 0xF000#16 = encodeXYN n3 0#4 0#4 0#4 := by
  have h := encodeXYN_and n3 0xF#4 x 0#4 y 0#4 n 0#4
  rwa [and_ones4, BitVec.and_zero, BitVec.and_zero, BitVec.and_zero] at h

/-- A word of format `XY` of family 0x8 under the mask 0xF00F. -/
theorem of_xy (n3 : Nibble) (x y : Reg) (n : Nibble) :
    encodeXYN n3 x y n &&& 0xF00F#16 = encodeXYN n3 0#4 0#4 n := by
  have h := encodeXYN_and n3 0xF#4 x 0#4 y 0#4 n 0xF#4
  rwa [and_ones4, BitVec.and_zero, BitVec.and_zero, and_ones4] at h

theorem cls : Statement .cls := rfl
theorem ret : Statement .ret := rfl
theorem jp (nnn : Addr) : Statement (.jp nnn) := of_a 0x1#4 nnn
theorem call (nnn : Addr) : Statement (.call nnn) := of_a 0x2#4 nnn
theorem seImm (x : Reg) (kk : Byte) : Statement (.seImm x kk) := of_xk 0x3#4 x kk
theorem sneImm (x : Reg) (kk : Byte) : Statement (.sneImm x kk) := of_xk 0x4#4 x kk
theorem seReg (x y : Reg) : Statement (.seReg x y) := of_xyn 0x5#4 x y 0x0#4
theorem ldImm (x : Reg) (kk : Byte) : Statement (.ldImm x kk) := of_xk 0x6#4 x kk
theorem addImm (x : Reg) (kk : Byte) : Statement (.addImm x kk) := of_xk 0x7#4 x kk
theorem ldReg (x y : Reg) : Statement (.ldReg x y) := of_xy 0x8#4 x y 0x0#4
theorem orReg (x y : Reg) : Statement (.orReg x y) := of_xy 0x8#4 x y 0x1#4
theorem andReg (x y : Reg) : Statement (.andReg x y) := of_xy 0x8#4 x y 0x2#4
theorem xorReg (x y : Reg) : Statement (.xorReg x y) := of_xy 0x8#4 x y 0x3#4
theorem addReg (x y : Reg) : Statement (.addReg x y) := of_xy 0x8#4 x y 0x4#4
theorem subReg (x y : Reg) : Statement (.subReg x y) := of_xy 0x8#4 x y 0x5#4
theorem shr (x y : Reg) : Statement (.shr x y) := of_xy 0x8#4 x y 0x6#4
theorem subn (x y : Reg) : Statement (.subn x y) := of_xy 0x8#4 x y 0x7#4
theorem shl (x y : Reg) : Statement (.shl x y) := of_xy 0x8#4 x y 0xE#4
theorem sneReg (x y : Reg) : Statement (.sneReg x y) := of_xyn 0x9#4 x y 0x0#4
theorem ldI (nnn : Addr) : Statement (.ldI nnn) := of_a 0xA#4 nnn
theorem rnd (x : Reg) (kk : Byte) : Statement (.rnd x kk) := of_xk 0xC#4 x kk
theorem drw (x y : Reg) (n : Nibble) : Statement (.drw x y n) := of_xyn 0xD#4 x y n
theorem skp (x : Reg) : Statement (.skp x) := of_x 0xE#4 x 0x9E#8
theorem sknp (x : Reg) : Statement (.sknp x) := of_x 0xE#4 x 0xA1#8
theorem ldVxDt (x : Reg) : Statement (.ldVxDt x) := of_x 0xF#4 x 0x07#8
theorem ldDtVx (x : Reg) : Statement (.ldDtVx x) := of_x 0xF#4 x 0x15#8
theorem ldStVx (x : Reg) : Statement (.ldStVx x) := of_x 0xF#4 x 0x18#8
theorem addI (x : Reg) : Statement (.addI x) := of_x 0xF#4 x 0x1E#8
theorem ldVxK (x : Reg) : Statement (.ldVxK x) := of_x 0xF#4 x 0x0A#8
theorem ldF (x : Reg) : Statement (.ldF x) := of_x 0xF#4 x 0x29#8
theorem ldB (x : Reg) : Statement (.ldB x) := of_x 0xF#4 x 0x33#8
theorem storeRegs (x : Reg) : Statement (.storeRegs x) := of_x 0xF#4 x 0x55#8
theorem loadRegs (x : Reg) : Statement (.loadRegs x) := of_x 0xF#4 x 0x65#8

end Sys2Proof.Laws.TableMatch
end

