-- ==== Sys2Proof/Tests/Slice0.lean ====
section
/-!
SUPPORT. The model's own tests. Expected results are the spec's: 95_test_vectors.md (S, E, T, F, A, M, G, K, H name
its vectors) or the example of the rule named. Each runs one step on a small state.
-/

namespace Sys2Proof.Tests

open Sys2Proof.Machine

/-! ## Well-formedness: the spec makes no operand value ill-formed, so there is no ill-formed term to refuse -/

theorem test_every_instruction_is_well_formed (i : Instr) : i.wellFormed = true := by cases i <;> rfl

/-! ## Decoding: each constructor from a word written out bit by bit from 30_encoding.md R75 -/

theorem test_decode_cls : decodeWord 0b0000_0000_1110_0000 = .ok .cls := by decide
theorem test_decode_ret : decodeWord 0b0000_0000_1110_1110 = .ok .ret := by decide
theorem test_decode_jp : decodeWord 0b0001_1010_1011_1100 = .ok (.jp 0xABC) := by decide
theorem test_decode_call : decodeWord 0b0010_1010_1011_1100 = .ok (.call 0xABC) := by decide
theorem test_decode_seImm : decodeWord 0b0011_1010_0111_1111 = .ok (.seImm 0xA 0x7F) := by decide
theorem test_decode_sneImm : decodeWord 0b0100_1010_0111_1111 = .ok (.sneImm 0xA 0x7F) := by decide
theorem test_decode_seReg : decodeWord 0b0101_0001_0010_0111 = .ok (.seReg 1 2) := by decide
theorem test_decode_ldImm : decodeWord 0b0110_1011_0100_0010 = .ok (.ldImm 0xB 0x42) := by decide
theorem test_decode_addImm : decodeWord 0b0111_1011_0100_0010 = .ok (.addImm 0xB 0x42) := by decide
theorem test_decode_ldReg : decodeWord 0b1000_1010_1011_0000 = .ok (.ldReg 0xA 0xB) := by decide
theorem test_decode_orReg : decodeWord 0b1000_1010_1011_0001 = .ok (.orReg 0xA 0xB) := by decide
theorem test_decode_andReg : decodeWord 0b1000_1010_1011_0010 = .ok (.andReg 0xA 0xB) := by decide
theorem test_decode_xorReg : decodeWord 0b1000_1010_1011_0011 = .ok (.xorReg 0xA 0xB) := by decide
theorem test_decode_addReg : decodeWord 0b1000_1010_1011_0100 = .ok (.addReg 0xA 0xB) := by decide
theorem test_decode_subReg : decodeWord 0b1000_1010_1011_0101 = .ok (.subReg 0xA 0xB) := by decide
theorem test_decode_shr : decodeWord 0b1000_1010_1011_0110 = .ok (.shr 0xA 0xB) := by decide
theorem test_decode_subn : decodeWord 0b1000_1010_1011_0111 = .ok (.subn 0xA 0xB) := by decide
theorem test_decode_shl : decodeWord 0b1000_1010_1011_1110 = .ok (.shl 0xA 0xB) := by decide
theorem test_decode_sneReg : decodeWord 0b1001_0001_0010_1111 = .ok (.sneReg 1 2) := by decide
theorem test_decode_ldI : decodeWord 0b1010_0001_0010_0011 = .ok (.ldI 0x123) := by decide
theorem test_decode_rnd : decodeWord 0b1100_0011_0000_1111 = .ok (.rnd 3 0x0F) := by decide
theorem test_decode_drw : decodeWord 0b1101_0001_0010_0011 = .ok (.drw 1 2 3) := by decide
theorem test_decode_skp : decodeWord 0b1110_0100_1001_1110 = .ok (.skp 4) := by decide
theorem test_decode_sknp : decodeWord 0b1110_0100_1010_0001 = .ok (.sknp 4) := by decide
theorem test_decode_ldVxDt : decodeWord 0b1111_0101_0000_0111 = .ok (.ldVxDt 5) := by decide
theorem test_decode_ldDtVx : decodeWord 0b1111_0101_0001_0101 = .ok (.ldDtVx 5) := by decide
theorem test_decode_ldStVx : decodeWord 0b1111_0101_0001_1000 = .ok (.ldStVx 5) := by decide
theorem test_decode_addI : decodeWord 0b1111_0101_0001_1110 = .ok (.addI 5) := by decide
theorem test_decode_ldVxK : decodeWord 0b1111_0101_0000_1010 = .ok (.ldVxK 5) := by decide
theorem test_decode_ldF : decodeWord 0b1111_0101_0010_1001 = .ok (.ldF 5) := by decide
theorem test_decode_ldB : decodeWord 0b1111_0101_0011_0011 = .ok (.ldB 5) := by decide
theorem test_decode_storeRegs : decodeWord 0b1111_0101_0101_0101 = .ok (.storeRegs 5) := by decide
theorem test_decode_loadRegs : decodeWord 0b1111_0101_0110_0101 = .ok (.loadRegs 5) := by decide

/-- E10, E13, E16, E18, E19: words of every unknown class. -/
theorem test_decode_unknown :
    ([0x8AB8, 0x8ABF, 0xB123, 0xE400, 0xE49F, 0xF500, 0xF5FF, 0x0000, 0x00E1, 0x01E0] : List Word).all
      (fun w => decide (decodeWord w = .error (.unknownOpcode w))) = true := by decide

theorem test_decode_truncated : decode [0x12] = .error .truncated := by decide

theorem test_decodeTableWord : decodeTableWord 16 0xD123 = some (.drw 1 2 3) := by decide

/-! ## Building a state and running one step -/

/-- Registers set over reset, by number. -/
def regs (l : List (Reg × Byte)) (s : State) : State := l.foldl (fun s p => s.writeV p.1 p.2) s

/-- Memory bytes set over a state, by address. -/
def bytes (l : List (Nat × Byte)) (s : State) : State := s.setMem (l.foldl (fun m p => Memory.write m p.1 p.2) s.mem)

/-- What a projection of the state reads after one step of the word at pc, if the step answers a next state. -/
def after {α : Type} (w : Nat) (s : State) (f : State → α) : Option α :=
  match step (s.withFetchWord 16 w) with
  | .next t => some (f t)
  | _ => none

/-- The fault record after one step. -/
def faultAfter (w : Nat) (s : State) : Option (Option FaultRecord) := after w s State.fault

/-- V1, V2 and VF. -/
def flags (s : State) : Byte × Byte × Byte := (s.readV 1, s.readV 2, s.readV 0xF)

/-! ## The step (95_test_vectors.md 2.2) -/

/-- T2: an odd pc. -/
theorem test_step_odd_pc :
    after 0x6107 { State.reset with pc := 0x201 } (fun t => (t.readV 1, t.pc)) = some (0x07, 0x203) := by decide

/-- T3: the last word of memory. -/
theorem test_step_last_word :
    after 0x6107 { State.reset with pc := 0xFFE } (fun t => (t.readV 1, t.pc)) = some (0x07, 0x1000) := by decide

/-- The fault record a step leaves. -/
def faultOf : Answer → Option FaultRecord
  | .next t => t.fault
  | _ => none

/-- T4: the second byte of the fetch is out of range. -/
theorem test_step_fetch_fault :
    faultOf (step { State.reset with pc := 0xFFF }) = some ⟨.outOfBounds, some 0xFFF, none, some 0x1000⟩ := by decide

/-- T6: unwritten memory is an unknown opcode. -/
theorem test_step_unknown :
    faultOf (step State.reset) = some ⟨.unknownOpcode, some 0x200, some 0, none⟩ := by decide

/-- T7: a dead machine does nothing. -/
theorem test_step_dead (s : State) (r : FaultRecord) (h : s.fault = some r) (hh : s.hostOps = []) :
    step s = .next s := by rw [step_of_nil hh, cpuStep, h]

/-! ## Flow (2.3) -/

/-- F3. -/
theorem test_ret : after 0x00EE { State.reset with
    stack := (State.reset.stack.set 0 0x0ABC).set 1 0x0206, sp := 2 } (fun t => (t.pc, t.sp, t.stack[0])) =
    some (0x206, 1, 0x0ABC) := by decide
/-- F2. -/
theorem test_ret_underflow : faultAfter 0x00EE State.reset =
    some (some ⟨.stackUnderflow, some 0x200, some 0x00EE, none⟩) := by decide
/-- F4. -/
theorem test_jp : after 0x1200 State.reset State.pc = some 0x200 := by decide
/-- F8. -/
theorem test_call : after 0x2ABC { State.reset with sp := 15 } (fun t => (t.pc, t.sp, t.stack[15])) =
    some (0xABC, 16, 0x0202) := by decide
/-- F9. -/
theorem test_call_overflow : faultAfter 0x2ABC { State.reset with sp := 16 } =
    some (some ⟨.stackOverflow, some 0x200, some 0x2ABC, none⟩) := by decide
/-- F10, F11. -/
theorem test_seImm : (after 0x3342 (regs [(3, 0x42)] State.reset) State.pc,
    after 0x3342 (regs [(3, 0x41)] State.reset) State.pc) = (some 0x204, some 0x202) := by decide
/-- F12, F13. -/
theorem test_sneImm : (after 0x4342 (regs [(3, 0x42)] State.reset) State.pc,
    after 0x4342 (regs [(3, 0x41)] State.reset) State.pc) = (some 0x202, some 0x204) := by decide
/-- F15, F17. -/
theorem test_seReg : (after 0x5120 (regs [(1, 7), (2, 8)] State.reset) State.pc,
    after 0x512A (regs [(1, 7), (2, 7)] State.reset) State.pc) = (some 0x202, some 0x204) := by decide
/-- F18, F20. -/
theorem test_sneReg : (after 0x9120 (regs [(1, 7), (2, 8)] State.reset) State.pc,
    after 0x9110 (regs [(1, 7)] State.reset) State.pc) = (some 0x204, some 0x202) := by decide

/-! ## Arithmetic and logic (2.4) -/

/-- A2. -/
theorem test_ldImm : after 0x6F07 State.reset (State.readV · 0xF) = some 0x07 := by decide
/-- A3, A5: the sum wraps and sets no flag. -/
theorem test_addImm : (after 0x7001 (regs [(0, 0xFF), (0xF, 7)] State.reset) (fun t => (t.readV 0, t.readV 0xF)),
    after 0x7F03 (regs [(0xF, 0xFE)] State.reset) (State.readV · 0xF)) = (some (0, 7), some 1) := by decide
/-- A6. -/
theorem test_ldReg : after 0x8120 (regs [(1, 0x11), (2, 0x22)] State.reset) flags = some (0x22, 0x22, 0) := by decide
/-- A7. -/
theorem test_orReg : after 0x8121 (regs [(1, 0xF0), (2, 0x0F), (0xF, 1)] State.reset) flags =
    some (0xFF, 0x0F, 1) := by decide
/-- A8. -/
theorem test_andReg : after 0x8122 (regs [(1, 0xF0), (2, 0x3C), (0xF, 1)] State.reset) flags =
    some (0x30, 0x3C, 1) := by decide
/-- A9. -/
theorem test_xorReg : after 0x8123 (regs [(1, 0xF0), (2, 0x3C), (0xF, 1)] State.reset) flags =
    some (0xCC, 0x3C, 1) := by decide
/-- A11, A12: 255 is no carry, 256 is one. -/
theorem test_addReg : (after 0x8124 (regs [(1, 0x80), (2, 0x7F), (0xF, 1)] State.reset) flags,
    after 0x8124 (regs [(1, 0x80), (2, 0x80)] State.reset) flags) =
    (some (0xFF, 0x7F, 0), some (0x00, 0x80, 1)) := by decide
/-- A15, A16: VF as destination and as source. -/
theorem test_addReg_vf : (after 0x8F24 (regs [(0xF, 0xF0), (2, 0x20)] State.reset) (State.readV · 0xF),
    after 0x81F4 (regs [(1, 0x10), (0xF, 0xF0)] State.reset) flags) = (some 1, some (0, 0, 1)) := by decide
/-- A17, A19. -/
theorem test_subReg : (after 0x8125 (regs [(1, 5), (2, 5)] State.reset) flags,
    after 0x8125 (regs [(1, 0), (2, 0xFF), (0xF, 1)] State.reset) flags) =
    (some (0, 5, 1), some (1, 0xFF, 0)) := by decide
/-- A20, A21. -/
theorem test_subn : (after 0x8127 (regs [(1, 2), (2, 1), (0xF, 1)] State.reset) flags,
    after 0x8127 (regs [(1, 3), (2, 0x0A)] State.reset) flags) = (some (0xFF, 1, 0), some (7, 0x0A, 1)) := by decide
/-- A23, A30. -/
theorem test_shr : (after 0x8126 (regs [(1, 0x81), (2, 4)] State.reset) flags,
    after 0x8F06 (regs [(0xF, 2)] State.reset) (State.readV · 0xF)) = (some (0x40, 4, 1), some 0) := by decide
/-- A25, A28. -/
theorem test_shl : (after 0x812E (regs [(1, 0x81), (2, 4)] State.reset) flags,
    after 0x811E (regs [(1, 0x7F)] State.reset) flags) = (some (2, 4, 1), some (0xFE, 0, 0)) := by decide
/-- A24, A26: the other value of `SHIFT_SRC`. -/
theorem test_shift_source_y :
    shiftRightLost (shiftOperand .y 1 2 (regs [(1, 0x81), (2, 4)] State.reset)) = (2, false) ∧
    shiftLeftLost (shiftOperand .y 1 2 (regs [(1, 0x81), (2, 4)] State.reset)) = (8, false) := by decide
/-- A32: whatever the draw, a zero mask gives zero. -/
theorem test_rnd (s : State) : ∃ t, exec (.rnd 3 0) s = .next t ∧ t.readV 3 = 0 ∧ t.free = s.free + 1 :=
  ⟨_, rfl, by simp, rfl⟩

/-! ## Index register and memory (2.5) -/

/-- M1. -/
theorem test_ldI : after 0xAFFF State.reset State.I = some 0x0FFF := by decide
/-- M7: the reduction modulo 65536; the sum, not the register, is compared. -/
theorem test_addI : after 0xF21E { regs [(2, 0x20)] State.reset with I := 0xFFF0 } State.I = some 0x0010 ∧
    (addIndex 0xFFF0 0x20).2 = true ∧ (addIndex 0x0F00 0xFF).2 = false := by decide
/-- M2 to M6: VF in the three modes, by whether the sum exceeds 0xFFF. -/
theorem test_addI_modes :
    (indexFlag .none false 7, indexFlag .setOnly false 7, indexFlag .setClear false 7) = (7, 7, 0) ∧
    (indexFlag .none true 0, indexFlag .setOnly true 0, indexFlag .setClear true 0) = (0, 1, 1) := by decide
/-- M9, M11. -/
theorem test_ldF : (after 0xF429 (regs [(4, 0x0A)] State.reset) State.I,
    after 0xF429 (regs [(4, 0xFF)] State.reset) State.I) = (some 0x0082, some 0x054B) := by decide
/-- M15. -/
theorem test_ldB : after 0xF533 { regs [(5, 0xFF)] State.reset with I := 0xFFD }
    (fun t => (Memory.read t.mem 0xFFD, Memory.read t.mem 0xFFE, Memory.read t.mem 0xFFF, Memory.wf t.mem)) =
    some (2, 5, 5, true) := by decide
/-- M16. -/
theorem test_ldB_fault : faultAfter 0xF533 { regs [(5, 0xFF)] State.reset with I := 0xFFE } =
    some (some ⟨.outOfBounds, some 0x200, some 0xF533, some 0x1000⟩) := by decide
/-- M17. -/
theorem test_storeRegs :
    after 0xF255 { regs [(0, 0xAA), (1, 0xBB), (2, 0xCC), (3, 0xDD)] State.reset with I := 0x300 }
      (fun t => ([0x300, 0x301, 0x302, 0x303].map (Memory.read t.mem), t.I)) =
    some ([0xAA, 0xBB, 0xCC, 0], 0x300) := by decide
/-- M20. -/
theorem test_storeRegs_fault : faultAfter 0xFF55 { State.reset with I := 0xFF1 } =
    some (some ⟨.outOfBounds, some 0x200, some 0xFF55, some 0x1000⟩) := by decide
/-- M22. -/
theorem test_loadRegs :
    after 0xF265 (bytes [(0x300, 1), (0x301, 2), (0x302, 3), (0x303, 4)]
      { regs [(3, 0x77)] State.reset with I := 0x300 }) (fun t => ([0, 1, 2, 3].map t.readV, t.I)) =
    some ([1, 2, 3, 0x77], 0x300) := by decide
/-- M24: an address is exact and does not wrap. -/
theorem test_loadRegs_fault : faultAfter 0xF165 { State.reset with I := 0xFFFF } =
    some (some ⟨.outOfBounds, some 0x200, some 0xF165, some 0xFFFF⟩) := by decide

/-! ## Display (2.6) -/

/-- The cells of a list that are on. -/
def lit (l : List (Nat × Nat)) (t : State) : List (Nat × Nat) := l.filter fun p => getPx t.display.px p.1 p.2

/-- A display with one cell on. -/
def oneCell (x y : Nat) : State :=
  { State.reset with display := { State.reset.display with px := setPx State.reset.display.px x y true } }

/-- G1. -/
theorem test_cls : after 0x00E0 (oneCell 63 31) (fun t => (getPx t.display.px 63 31, t.display.dirty)) =
    some (false, true) := by decide
/-- G3: clipped at the right edge, not brought back at the left. -/
theorem test_drw_clip :
    after 0xD121 (bytes [(0x300, 0xFF)] { regs [(1, 60), (0xF, 1)] State.reset with I := 0x300 })
      (fun t => (lit [(59, 0), (60, 0), (63, 0), (0, 0), (3, 0), (60, 1)] t, t.readV 0xF, t.display.dirty)) =
    some ([(60, 0), (63, 0)], 0, true) := by decide
/-- G13: a cell from on to off collides. -/
theorem test_drw_collision :
    after 0xD121 (bytes [(0x300, 0x80)] { oneCell 0 0 with I := 0x300 })
      (fun t => (getPx t.display.px 0 0, t.readV 0xF, t.display.collision)) = some (false, 1, true) := by decide
/-- G9, G10: a row past the bottom edge, dropped or wrapped by the parameter. -/
theorem test_drawRow_bottom :
    getPx (Display.blank.drawRow false 0 31 1 0x81).px 0 0 = false ∧
    getPx (Display.blank.drawRow true 0 31 1 0x81).px 7 0 = true := by decide
/-- G11: the byte of a clipped row is still read. -/
theorem test_drw_fault :
    faultAfter 0xD122 (bytes [(0xFFF, 0xFF)] { regs [(2, 31)] State.reset with I := 0xFFF }) =
    some (some ⟨.outOfBounds, some 0x200, some 0xD122, some 0x1000⟩) := by decide

/-! ## Keys and timers (2.7) -/

/-- A keyboard over reset. -/
def withKb (d l : Option Key) (g : Bool) (s : State) : State := s.setKb ⟨d, l, g⟩

/-- K1, K6. -/
theorem test_skp : (after 0xE49E (withKb (some 7) none false (regs [(4, 7)] State.reset)) State.pc,
    after 0xE49E (withKb (some 7) none false (regs [(4, 0x17)] State.reset)) State.pc) =
    (some 0x204, some 0x202) := by decide
/-- K4, K5. -/
theorem test_sknp : (after 0xE4A1 (withKb (some 7) none false (regs [(4, 7)] State.reset)) State.pc,
    after 0xE4A1 (withKb none none false (regs [(4, 7)] State.reset)) State.pc) = (some 0x202, some 0x204) := by decide
/-- K9. -/
theorem test_ldVxK : after 0xF30A (withKb (some 2) (some 0xC) true State.reset)
    (fun t => (t.readV 3, t.pc, t.kb)) = some (0x0C, 0x202, ⟨some 2, some 0xC, true⟩) := by decide
/-- K10. -/
theorem test_ldVxK_waits : after 0xF30A (withKb none (some 0xC) false State.reset)
    (fun t => (t.readV 3, t.pc)) = some (0, 0x200) := by decide
/-- K11. -/
theorem test_ldVxDt : after 0xF507 { State.reset with dt := 0x3C } (fun t => (t.readV 5, t.dt)) =
    some (0x3C, 0x3C) := by decide
/-- K12. -/
theorem test_ldDtVx : after 0xF515 (regs [(5, 0x3C)] State.reset) (fun t => (t.dt, t.st)) = some (0x3C, 0) := by decide
/-- K13. -/
theorem test_ldStVx : after 0xF518 (regs [(5, 2)] State.reset) (fun t => (t.st, t.dt, soundActive t)) =
    some (2, 0, true) := by decide

/-! ## Host operations (2.8, S6) -/

/-- What a projection reads after one host operation. -/
def afterHost {α : Type} (op : HostOp) (s : State) (f : State → α) : Option α :=
  match step (s.setHostOps [op]) with
  | .next t => some (f t)
  | _ => none

/-- H1. -/
theorem test_tick : afterHost .tickTimers { State.reset with dt := 255, st := 1 } (fun t => (t.dt, t.st)) =
    some (254, 0) := by decide
/-- H3. -/
theorem test_keyDown : afterHost (.keyDown 9) (withKb (some 3) none false State.reset) State.kb =
    some ⟨some 9, none, false⟩ := by decide
/-- H4, H5. -/
theorem test_keyUp : (afterHost .keyUp (withKb none (some 5) false State.reset) State.kb,
    afterHost .keyUp (withKb (some 9) (some 5) false State.reset) State.kb) =
    (some ⟨none, some 5, false⟩, some ⟨none, some 9, true⟩) := by decide
/-- S6. -/
theorem test_clearSignals : afterHost .clearSignals (withKb none (some 5) true State.reset) State.kb =
    some ⟨none, some 5, false⟩ := by decide
/-- H7. -/
theorem test_consumeDirty : afterHost .consumeDirty
    { State.reset with display := { State.reset.display with dirty := true } } isDirty = some false := by decide
/-- H11. -/
theorem test_snapshot : (snapshot (oneCell 3 1))[67] = true ∧ (snapshot (oneCell 3 1))[3] = false := by
  constructor <;> simp only [snapshot, Vector.getElem_ofFn] <;> decide
/-- The first and last glyphs of 20_memory.md R60 in place. -/
theorem test_loadFont : afterHost .loadFont State.reset
    (fun t => [0x04F, 0x050, 0x054, 0x09B, 0x09F, 0x0A0].map (Memory.read t.mem)) =
    some [0, 0xF0, 0xF0, 0xF0, 0x80, 0] := by decide
/-- 20_memory.md R55: an empty block "cannot fail when `a <= 4096`", and fails above. -/
theorem test_write_block_empty : writeBlockBytes State.reset.mem 4096 [] = .ok State.reset.mem ∧
    writeBlockBytes State.reset.mem 4097 [] = .error (.outOfBounds 4097) := by decide
/-- A load after the first step has no transition (R197). -/
theorem test_load_refused : step ({ State.reset with started := true }.setHostOps [.loadFont]) =
    .refused .loadAfterFirstStep := rfl
/-- `reset()` revives a dead machine (R175). -/
theorem test_reset_revives : afterHost .reset
    { State.reset with fault := some ⟨.unknownOpcode, none, none, none⟩, pc := 7 } (fun t => (t.fault, t.pc)) =
    some (none, 0x200) := by decide

/-! ## Witnesses: for each statement with hypotheses, a state and operands that meet them all -/

/-- DecodeOfEncodeIsIdentity, EncodeOfDecodeIsCanonicalWord. -/
theorem witness_encoding : (Instr.drw 1 2 3).wellFormed = true ∧ decodeWord 0x5127 = .ok (.seReg 1 2) := by decide

/-- StepRunsDecodedInstruction: each of its four clauses, the fetch at both sides of the end of memory. -/
theorem witness_step :
    (State.reset.withFetchWord 16 0x6005).hostOps = [] ∧ Running (State.reset.withFetchWord 16 0x6005) ∧
    decodeWord (opcodeAtPc (State.reset.withFetchWord 16 0x6005)) = .ok (.ldImm 0 5) ∧
    decodeWord (opcodeAtPc State.reset) = .error (.unknownOpcode 0) ∧
    (0xFFE#16).toNat + 1 < 4096 ∧ 4096 ≤ (0xFFF#16).toNat + 1 ∧
    ¬ Running { State.reset with fault := some ⟨.unknownOpcode, none, none, none⟩ } := by decide

/-- EveryCpuStepAnswersNextState, EveryStepKeepsRunningInvariant, EveryStepKeepsMemoryCanonical. -/
theorem witness_invariants : State.reset.hostOps = [] ∧ RunningInv State.reset ∧ MemCanonical State.reset ∧
    ∃ t, step State.reset = .next t :=
  ⟨rfl, fun _ => ⟨by decide, by decide, fun _ _ hj => absurd hj (Nat.not_lt_zero _)⟩, rfl, _, rfl⟩

/-- WaitingStepLeavesStateAsItWas. -/
theorem witness_waiting :
    let s := { State.reset with started := true }.withFetchWord 16 0xF30A
    s.hostOps = [] ∧ Running s ∧ s.started = true ∧ s.pc.toNat + 1 < 4096 ∧
      opcodeAtPc s = 0xF#4 ++ (3 : Reg) ++ 0x0A#8 ∧ s.kb.signal = false := by decide

/-- ShiftsMoveOneBitAndKeepLostBit. -/
theorem witness_shift : (0 : Byte) = if shiftSrc = .x then State.reset.readV 1 else State.reset.readV 2 := by decide

/-- CallPushesReturnAddress and ReturnUndoesCall at both ends; ReturnPopsIntoPc. -/
theorem witness_stack : State.reset.sp.val < 16 ∧ { State.reset with sp := 15 }.sp.val < 16 ∧
    { State.reset with sp := 1 }.sp.val ≠ 0 ∧ { State.reset with sp := 16 }.sp.val ≠ 0 := by decide

/-- AddIndexFollowsFlagMode. -/
theorem witness_addI : (0xFFFF + 1 : Nat) =
    { State.reset with I := 0xFFFF }.I.toNat + ((regs [(2, 1)] State.reset).readV 2).toNat := by decide

/-- BcdStoresThreeDigits, StoreRegistersWritesRange, LoadRegistersReadsRange: canonical memory, and I at both sides of
the last place that fits. -/
theorem witness_ranges : MemCanonical State.reset ∧ (0xFFD#16).toNat + 2 < 4096 ∧ 4096 ≤ (0xFFE#16).toNat + 2 ∧
    (0xFF0#16).toNat + (0xF#4).toNat < 4096 ∧ 4096 ≤ (0xFF1#16).toNat + (0xF#4).toNat := by decide

/-- LoadAfterStoreRestoresRegisters. -/
theorem witness_store_load : ∃ t u, exec (.storeRegs 0) State.reset = .next t ∧
    exec (.loadRegs 0) (t.setV (Vector.replicate 16 7)) = .next u := ⟨_, _, rfl, rfl⟩

/-- BlitRowXorsAndCollides at both corners. -/
theorem witness_blit : (0 < 64 ∧ 0 < 32) ∧ 63 < 64 ∧ 31 < 32 := by decide

/-- DrawXorsSpriteAndReportsCollision and DrawingTwiceRestoresGrid: no row, and the last byte of memory. -/
theorem witness_draw : ((0#4).toNat = 0 ∨ (0xFFFF#16).toNat + (0#4).toNat ≤ 4096) ∧
    ((1#4).toNat = 0 ∨ (0xFFF#16).toNat + (1#4).toNat ≤ 4096) ∧
    (drawVwrap = false ∨ (State.reset.readV 2).toNat % 32 + (1#4).toNat ≤ 32) := by decide

theorem witness_draw_twice : ∃ t u, exec (.drw 1 2 1) State.reset = .next t ∧ exec (.drw 1 2 1) t = .next u :=
  ⟨_, _, rfl, rfl⟩

/-- KeySkipsTestKeyDown: a `pressed` that holds and one that does not. -/
theorem witness_keys :
    (∃ k, (withKb (some 5) none false State.reset).kb.down = some k ∧
      k.toNat = ((regs [(2, 5)] State.reset).readV 2).toNat) ∧
    ¬ ∃ k, State.reset.kb.down = some k ∧ k.toNat = (State.reset.readV 2).toNat :=
  ⟨⟨5, rfl, by decide⟩, fun ⟨_, h, _⟩ => by cases h⟩

/-- KeyWaitTakesReleaseOrRewinds: its three clauses. -/
theorem witness_key_wait :
    (withKb none (some 5) true State.reset).kb.signal = true ∧ (withKb none (some 5) true State.reset).kb.last = some 5 ∧
    State.reset.kb.signal = false ∧
    (withKb none none true State.reset).kb.signal = true ∧ (withKb none none true State.reset).kb.last = none := by decide

/-- ByteAccessesAreCheckedStorage, WrittenSequenceReadsBack, WritesKeepMemoryCanonical: both sides of the bound, and
the empty sequence past it. -/
theorem witness_memory : Memory.wf State.reset.mem = true ∧ 0xFFF < 4096 ∧ 4096 ≤ 0x1000 ∧
    0xFFD + ([1, 2, 3] : List Byte).length ≤ 4096 ∧ 4096 < 0xFFE + ([1, 2, 3] : List Byte).length ∧
    ([1, 2, 3] : List Byte) ≠ [] ∧ 4096 < 0x1001 + ([] : List Byte).length := by decide

/-- InstructionErrorsAreRecorded: each clause at its boundary. -/
theorem witness_errors : State.reset.sp.val = 0 ∧ { State.reset with sp := 16 }.sp.val = 16 ∧
    0 < (2#4).toNat ∧ 4096 < (0xFFF#16).toNat + (2#4).toNat ∧ 4096 ≤ (0xFFE#16).toNat + 2 ∧
    4096 ≤ (0x1000#16).toNat + (0#4).toNat := by decide

/-- OnlySixInstructionsRaiseErrors. -/
theorem witness_raises : Running State.reset ∧ ∃ t, exec .ret State.reset = .next t ∧
    t.fault = some (FatalError.stackUnderflow.record (some 0x1FE) (some 0x00EE)) := ⟨rfl, _, rfl, rfl⟩

/-- DeadMachineWaitsForReset: a dead machine and an operation that is neither `step()` nor `reset()`. -/
theorem witness_dead : ¬ Running { State.reset with fault := some ⟨.unknownOpcode, none, none, none⟩ } ∧
    HostOp.keyUp ≠ .step ∧ HostOp.keyUp ≠ .reset := by decide

/-- OnlyNamedInstructionsChangeState, OnlyListedInstructionsChangeFlagRegister. -/
theorem witness_frames : Running State.reset ∧ ∃ t, exec (.ldImm 0xF 1) State.reset = .next t ∧ Running t ∧
    t.readV 0xF ≠ State.reset.readV 0xF := ⟨rfl, _, rfl, rfl, by decide⟩

/-- KeyUpRecordsRelease. -/
theorem witness_keyUp : (Keyboard.quiet.keyDown 3).down = some 3 ∧ Keyboard.quiet.down = none := by decide

/-- DisplayQueriesAndSnapshotOrder at both corners. -/
theorem witness_snapshot : (0 < 64 ∧ 0 < 32) ∧ 63 < 64 ∧ 31 < 32 := by decide

/-- FontLoadWritesEightyBytes, ProgramLoadWritesOrFails, BootReachesLaunchState: both sides of the program's bound. -/
theorem witness_loads : MemCanonical State.reset ∧ (List.replicate 3584 (0 : Byte)).length ≤ 3584 ∧
    3584 < (List.replicate 3585 (0 : Byte)).length := 
  ⟨rfl, List.length_replicate.le, Nat.lt_of_lt_of_eq (by decide) List.length_replicate.symm⟩

/-- HostOperationsRunInListOrder: before and after the first step. -/
theorem witness_hostOps : Running State.reset ∧ State.reset.started = false ∧
    { State.reset with started := true }.started = true := by decide

/-- PlacedWordRunsNext. -/
theorem witness_placed : MemCanonical State.reset ∧ decodeTableWord 16 0x6005 = some (.ldImm 0 5) ∧
    State.reset.pc.toNat + 1 < 4096 := by decide

end Sys2Proof.Tests
end

section
/-!
The statements of 20_memory.md: single-byte accesses (R52, R54) and the round trip of a byte sequence (R55, R56).
-/

namespace Sys2Proof.Machine

/-- A checked read depends on the cell alone, so a frame of cells is a frame of checked reads. -/
theorem memRead_congr {m m' : Memory} {c : Nat} (h : Memory.read m' c = Memory.read m c) :
    memRead m' c = memRead m c := by
  simp only [memRead, h]

/-- A read of as many bytes as a sequence gives the sequence, when memory inside the bound holds it cell by cell. -/
theorem readBytes_eq_of_cells {m : Memory} {a : Nat} {bs : List Byte} (hbound : a + bs.length ≤ Config.memSize)
    (hcells : ∀ (j : Nat) (hj : j < bs.length), Memory.read m (a + j) = bs[j]) :
    readBytes m a bs.length = .ok bs := by
  rw [readBytes_ok (Or.inr hbound)]
  refine congrArg Except.ok (List.ext_getElem (by simp) fun j _ hj => ?_)
  simpa using hcells j hj

/-- Inside the bound a sequence is written, as a block and byte by byte alike, and reads back; every other cell is
unchanged (R55, R56). -/
theorem writeBlockBytes_readsBack {m : Memory} {a : Nat} {bs : List Byte} (hwf : Memory.wf m = true)
    (hbound : a + bs.length ≤ Config.memSize) :
    ∃ m', writeBlockBytes m a bs = .ok m' ∧ writeBytes m a bs = .ok m' ∧
      (∀ (j : Nat) (h : j < bs.length), memRead m' (a + j) = .ok bs[j]) ∧
      readBytes m' a bs.length = .ok bs ∧
      ∀ c, c < a ∨ a + bs.length ≤ c → memRead m' c = memRead m c := by
  obtain ⟨m', hwrite, hframe, hcanonical⟩ := writeBytes_ok (m := m) (Or.inr hbound)
  obtain ⟨-, hcells⟩ := hcanonical hwf
  refine ⟨m', (writeBlockBytes_ok hbound).trans hwrite, hwrite, fun j hj => ?_,
    readBytes_eq_of_cells hbound hcells, fun c hc => memRead_congr (hframe c hc)⟩
  rw [memRead_ok (by omega), hcells j hj]

/-- Every cell of reset memory holds 0x00 (R56). -/
theorem memRead_reset {c : Nat} (hc : c < Config.memSize) : memRead State.reset.mem c = .ok 0 := memRead_ok hc

/-- Settles O37: the bound decides each access, and below it a write is the canonical memory's update (R52, R54). -/
theorem byteAccessesAreCheckedStorage : Obligations.ByteAccessesAreCheckedStorage := by
  intro m a v hwf
  constructor
  · intro ha
    refine ⟨memRead_ok ha, Memory.write m a v, memWrite_ok v ha, ?_, fun c hc => ?_⟩
    · rw [memRead_ok ha, Memory.read_write_self a v hwf]
    · exact memRead_congr (Memory.read_write_ne m v hc.symm)
  · exact fun ha => ⟨memRead_error ha, memWrite_error v ha⟩

/-- Settles O38: inside the bound by `writeBlockBytes_readsBack`; past it the block's end check fails, and the first
byte out of range fails the single-byte accesses (R55, R56). -/
theorem writtenSequenceReadsBack : Obligations.WrittenSequenceReadsBack := by
  intro m a bs hwf
  refine ⟨writeBlockBytes_readsBack hwf, fun hpast => ⟨⟨_, writeBlockBytes_error hpast⟩, fun hne => ?_⟩,
    fun c hc => memRead_reset hc⟩
  exact ⟨⟨_, writeBytes_error hne hpast⟩, _, readBytes_error (List.length_pos_of_ne_nil hne) hpast⟩

end Sys2Proof.Machine
end

section
/-!
The statements of 40_flow.md: the jump (R101) and the two immediate skips (R103, R104).
-/

namespace Sys2Proof.Machine

/-! ### Decoding the three words -/

theorem decodeWord_jp (nnn : Addr) : decodeWord (encodeA 0x1#4 nnn) = .ok (.jp nnn) := by
  rw [decodeWord, fieldN3_encodeA, fieldNnn_encodeA]; rfl

theorem decodeWord_seImm (x : Reg) (kk : Byte) : decodeWord (encodeXK 0x3#4 x kk) = .ok (.seImm x kk) := by
  rw [decodeWord, fieldN3_encodeXK, fieldX_encodeXK, fieldKk_encodeXK]; rfl

theorem decodeWord_sneImm (x : Reg) (kk : Byte) : decodeWord (encodeXK 0x4#4 x kk) = .ok (.sneImm x kk) := by
  rw [decodeWord, fieldN3_encodeXK, fieldX_encodeXK, fieldKk_encodeXK]; rfl

/-! ### What the three instructions answer -/

theorem exec_jp (nnn : Addr) (s : State) : exec (.jp nnn) s = .next (s.setPc (target nnn)) := rfl

theorem exec_seImm (x : Reg) (kk : Byte) (s : State) :
    exec (.seImm x kk) s = .next (s.skipIf (s.readV x == kk)) := rfl

theorem exec_sneImm (x : Reg) (kk : Byte) (s : State) :
    exec (.sneImm x kk) s = .next (s.skipIf (s.readV x != kk)) := rfl

/-- A jump target is the 12-bit field's own number (R107). -/
@[simp] theorem toNat_target (nnn : Addr) : (target nnn).toNat = nnn.toNat :=
  BitVec.toNat_setWidth_of_le (by decide)

/-- A skip, taken or not, writes nothing but pc (R108). -/
theorem State.skipIf_eq_setPc (s : State) (c : Bool) : s.skipIf c = s.setPc (s.skipIf c).pc := by
  cases c <;> rfl

/-- An instruction that answers a skip on `c` changes only pc, and pc advances exactly when `c` holds (R108). -/
theorem exec_of_skipIf {i : Instr} {s : State} {c : Bool} (h : exec i s = .next (s.skipIf c)) :
    ∃ t, exec i s = .next t ∧ t = { s with pc := t.pc } ∧ t.pc = if c then s.pc + 2 else s.pc :=
  ⟨_, h, s.skipIf_eq_setPc c, s.skipIf_pc c⟩

/-- Settles O20: `exec_of_skipIf` for both skips, the byte test being equality of the 8-bit numbers (R103, R104). -/
theorem immediateSkipsCompareAllBits : Obligations.ImmediateSkipsCompareAllBits := by
  intro x kk s
  refine ⟨decodeWord_seImm x kk, decodeWord_sneImm x kk, ?_, ?_⟩
  · simpa only [beq_iff_eq, BitVec.toNat_inj] using exec_of_skipIf (exec_seImm x kk s)
  · simpa only [bne_iff_ne, ite_not, ne_eq, BitVec.toNat_inj] using exec_of_skipIf (exec_sneImm x kk s)

/-- Settles O16: the answer is `s.setPc (target nnn)`, which keeps every element but pc (R101). -/
theorem jumpGoesToAbsoluteTarget : Obligations.JumpGoesToAbsoluteTarget := fun nnn s =>
  ⟨decodeWord_jp nnn, _, exec_jp nnn s, toNat_target nnn, rfl⟩

end Sys2Proof.Machine
end

section
/-!
The statements of 41_alu.md: the register load (R112), the unflagged add (R113) and the register copy (R114).
-/

namespace Sys2Proof.Machine

/-! ### Decoding the three words -/

theorem decodeWord_ldImm (x : Reg) (kk : Byte) : decodeWord (encodeXK 0x6#4 x kk) = .ok (.ldImm x kk) := by
  rw [decodeWord, fieldN3_encodeXK, fieldX_encodeXK, fieldKk_encodeXK]; rfl

theorem decodeWord_addImm (x : Reg) (kk : Byte) : decodeWord (encodeXK 0x7#4 x kk) = .ok (.addImm x kk) := by
  rw [decodeWord, fieldN3_encodeXK, fieldX_encodeXK, fieldKk_encodeXK]; rfl

/-- Family 0x8 is told apart by the low nibble (R74). -/
theorem decodeWord_family8 (x y : Reg) (n : Nibble) :
    decodeWord (encodeXYN 0x8#4 x y n) = decodeFamily8 (encodeXYN 0x8#4 x y n) := by
  rw [decodeWord, fieldN3_encodeXYN]; rfl

theorem decodeWord_ldReg (x y : Reg) : decodeWord (encodeXYN 0x8#4 x y 0x0#4) = .ok (.ldReg x y) := by
  rw [decodeWord_family8, decodeFamily8, fieldN_encodeXYN, fieldX_encodeXYN, fieldY_encodeXYN]; rfl

/-! ### What the three instructions answer -/

theorem exec_ldImm (x : Reg) (kk : Byte) (s : State) : exec (.ldImm x kk) s = .next (s.writeV x kk) := rfl

theorem exec_addImm (x : Reg) (kk : Byte) (s : State) :
    exec (.addImm x kk) s = .next (s.writeV x (BitVec.ofNat 8 ((s.readV x).toNat + kk.toNat))) := rfl

theorem exec_ldReg (x y : Reg) (s : State) : exec (.ldReg x y) s = .next (s.writeV x (s.readV y)) := rfl

/-! ### The frame of one register write -/

theorem State.readV_writeV_self (s : State) (x : Reg) (b : Byte) : (s.writeV x b).readV x = b := by
  rw [State.readV_writeV, if_pos rfl]

/-- A register write changes its register and nothing else (R20). -/
theorem regsBecome_writeV (s : State) (x : Reg) (b : Byte) :
    RegsBecome s (s.writeV x b) fun r => if r = x then b else s.readV r :=
  ⟨rfl, fun r => by simp only [State.readV_writeV, eq_comm]⟩

/-- `regsBecome_writeV` with the written byte named by what its register holds afterwards. -/
theorem regsBecome_writeV_readV (s : State) (x : Reg) (b : Byte) :
    RegsBecome s (s.writeV x b) fun r => if r = x then (s.writeV x b).readV x else s.readV r := by
  simpa only [State.readV_writeV_self] using regsBecome_writeV s x b

/-- Settles O9: the byte written is the exact sum reduced modulo 256, and only `V[x]` is written (R113). -/
theorem addImmediateWrapsWithoutFlag : Obligations.AddImmediateWrapsWithoutFlag := by
  intro x kk s
  refine ⟨decodeWord_addImm x kk, _, exec_addImm x kk s, ?_, regsBecome_writeV_readV s x _⟩
  rw [State.readV_writeV_self, BitVec.toNat_ofNat]

/-- Settles O8: the answer is one register write of `kk` (R112). -/
theorem loadImmediateSetsRegister : Obligations.LoadImmediateSetsRegister := fun x kk s =>
  ⟨decodeWord_ldImm x kk, _, exec_ldImm x kk s, regsBecome_writeV s x kk⟩

/-- Settles O10: the answer is one register write of the old `V[y]` (R114). -/
theorem copyMovesRegister : Obligations.CopyMovesRegister := fun x y s =>
  ⟨decodeWord_ldReg x y, _, exec_ldReg x y s, regsBecome_writeV s x (s.readV y)⟩

end Sys2Proof.Machine
end

section
/-!
The statements of 42_index_memory.md: the index load (R130) and the three instructions that access memory through I
(R133 to R135), each a sequence of single-byte accesses from I on that completes or stops at the first address out
of range (R136).
-/

namespace Sys2Proof.Machine

/-! ### Decoding the four words -/

theorem decodeWord_ldI (nnn : Addr) : decodeWord (encodeA 0xA#4 nnn) = .ok (.ldI nnn) := by
  rw [decodeWord, fieldN3_encodeA, fieldNnn_encodeA]; rfl

/-- Family 0xF is told apart by the low byte (R74). -/
theorem decodeWord_familyF (x : Reg) (kk : Byte) :
    decodeWord (encodeXK 0xF#4 x kk) = decodeFamilyF (encodeXK 0xF#4 x kk) := by
  rw [decodeWord, fieldN3_encodeXK]; rfl

theorem decodeWord_ldB (x : Reg) : decodeWord (encodeXK 0xF#4 x 0x33#8) = .ok (.ldB x) := by
  rw [decodeWord_familyF, decodeFamilyF, fieldKk_encodeXK, fieldX_encodeXK]; rfl

theorem decodeWord_storeRegs (x : Reg) : decodeWord (encodeXK 0xF#4 x 0x55#8) = .ok (.storeRegs x) := by
  rw [decodeWord_familyF, decodeFamilyF, fieldKk_encodeXK, fieldX_encodeXK]; rfl

theorem decodeWord_loadRegs (x : Reg) : decodeWord (encodeXK 0xF#4 x 0x65#8) = .ok (.loadRegs x) := by
  rw [decodeWord_familyF, decodeFamilyF, fieldKk_encodeXK, fieldX_encodeXK]; rfl

/-! ### Setting I -/

theorem exec_ldI (nnn : Addr) (s : State) : exec (.ldI nnn) s = .next (s.setI (target nnn)) := rfl

/-! ### Storing bytes from I on -/

/-- The answer of an instruction with opcode `op` that stores `bs` from I on. -/
def storeAtI (op : Word) (bs : List Byte) (s : State) : Answer :=
  complete op s ((writeBytes s.mem s.I.toNat bs).map s.setMem)

theorem exec_ldB (x : Reg) (s : State) :
    exec (.ldB x) s = storeAtI (encode (.ldB x)) (bcdDigits (s.readV x)) s := rfl

theorem exec_storeRegs (x : Reg) (s : State) :
    exec (.storeRegs x) s = storeAtI (encode (.storeRegs x)) (regsThrough s x) s := rfl

/-- A store that ends inside memory answers a state in which byte `I + j` is the `j`-th byte stored and nothing else
has changed. -/
theorem storeAtI_ok {op : Word} {bs : List Byte} {s : State} (hwf : MemCanonical s)
    (hbound : s.I.toNat + bs.length ≤ Config.memSize) :
    ∃ t, storeAtI op bs s = .next t ∧ OnlyMemChanges s t s.I.toNat bs.length ∧
      ∀ (j : Nat) (hj : j < bs.length), Memory.read t.mem (s.I.toNat + j) = bs[j] := by
  obtain ⟨m', hwrite, hframe, hcanonical⟩ := writeBytes_ok (m := s.mem) (Or.inr hbound)
  obtain ⟨-, hcells⟩ := hcanonical hwf
  exact ⟨s.setMem m', by rw [storeAtI, hwrite]; rfl, ⟨rfl, hframe⟩, hcells⟩

/-- A store that leaves memory takes OutOfBounds at the first address out of range. -/
theorem storeAtI_error {op : Word} {bs : List Byte} {s : State} (hne : bs ≠ [])
    (hpast : Config.memSize < s.I.toNat + bs.length) :
    storeAtI op bs s =
      takeFatal (.outOfBounds (max s.I.toNat Config.memSize)) (some (s.pc - 2)) (some op) s := by
  rw [storeAtI, writeBytes_error hne hpast]; rfl

@[simp] theorem bcdDigits_length (b : Byte) : (bcdDigits b).length = 3 := by
  simp only [bcdDigits, List.length_cons, List.length_nil]

/-- Each stored digit is the decimal digit's own number: none is reduced modulo 256 (R133). -/
theorem toNat_bcdDigits (b : Byte) :
    (bcdDigits b)[0].toNat = b.toNat / 100 ∧ (bcdDigits b)[1].toNat = b.toNat / 10 % 10 ∧
      (bcdDigits b)[2].toNat = b.toNat % 10 := by
  have := b.isLt
  simp only [bcdDigits, List.getElem_cons_zero, List.getElem_cons_succ, BitVec.toNat_ofNat]
  omega

/-! ### Loading registers from I on -/

theorem exec_loadRegs (x : Reg) (s : State) :
    exec (.loadRegs x) s = complete (encode (.loadRegs x)) s
      ((readBytes s.mem s.I.toNat (x.toNat + 1)).map fun bs => s.setV (writeRegs 0 bs s.v)) := rfl

/-- A load of V0 to Vx that ends inside memory answers the state with those bytes in the registers named. -/
theorem exec_loadRegs_ok {x : Reg} {s : State} (hbound : s.I.toNat + (x.toNat + 1) ≤ Config.memSize) :
    exec (.loadRegs x) s = .next (s.setV (writeRegs 0
      ((List.range (x.toNat + 1)).map fun j => Memory.read s.mem (s.I.toNat + j)) s.v)) := by
  rw [exec_loadRegs, readBytes_ok (Or.inr hbound)]; rfl

/-- A load that leaves memory takes OutOfBounds at the first address out of range. -/
theorem exec_loadRegs_error {x : Reg} {s : State} (hpast : Config.memSize < s.I.toNat + (x.toNat + 1)) :
    exec (.loadRegs x) s = takeFatal (.outOfBounds (max s.I.toNat Config.memSize)) (some (s.pc - 2))
      (some (encode (.loadRegs x))) s := by
  rw [exec_loadRegs, readBytes_error (Nat.succ_pos _) hpast]; rfl

/-- Bytes written to the registers from V0 on: register `r` holds byte `r` where there is one (R135). -/
theorem readV_setV_writeRegs (s : State) (f : Nat → Byte) (n : Nat) (r : Reg) :
    (s.setV (writeRegs 0 ((List.range n).map f) s.v)).readV r = if r.toNat < n then f r.toNat else s.readV r := by
  simp only [State.readV, State.setV_v, getElem_writeRegs _ _ _ _ r.isLt]
  by_cases h : r.toNat < n <;> simp [h]

/-! ### The four statements -/

/-- Settles O25: the store of the three digits of `V[x]`, by `storeAtI_ok` inside memory and `storeAtI_error` past it
(R133). -/
theorem bcdStoresThreeDigits : Obligations.BcdStoresThreeDigits := by
  intro x s hwf
  refine ⟨decodeWord_ldB x, fun hin => ?_, fun hpast => ⟨_, _, (exec_ldB x s).trans
    (storeAtI_error (List.cons_ne_nil _ _) (Nat.lt_succ_of_le hpast)), rfl, rfl, rfl⟩⟩
  obtain ⟨t, hexec, honly, hcells⟩ :=
    storeAtI_ok (op := encode (.ldB x)) (bs := bcdDigits (s.readV x)) hwf (Nat.succ_le_of_lt hin)
  obtain ⟨hundreds, tens, ones⟩ := toNat_bcdDigits (s.readV x)
  refine ⟨t, (exec_ldB x s).trans hexec, honly, ?_, ?_, ?_⟩
  · rw [← hundreds, ← hcells 0 (by simp), Nat.add_zero]
  · rw [← tens, ← hcells 1 (by simp)]
  · rw [← ones, ← hcells 2 (by simp)]

/-- Settles O26: the store of the x + 1 registers V0 to Vx, by `storeAtI_ok` inside memory and `storeAtI_error` past it
(R134). -/
theorem storeRegistersWritesRange : Obligations.StoreRegistersWritesRange := by
  intro x s hwf
  have hlen := regsThrough_length s x
  refine ⟨decodeWord_storeRegs x, fun hin => ?_, fun hpast => ⟨_, _, (exec_storeRegs x s).trans
    (storeAtI_error (List.ne_nil_of_length_eq_add_one hlen) (hlen.symm ▸ Nat.lt_succ_of_le hpast)), rfl, rfl⟩⟩
  obtain ⟨t, hexec, honly, hcells⟩ :=
    storeAtI_ok (op := encode (.storeRegs x)) (bs := regsThrough s x) hwf (hlen.symm ▸ Nat.succ_le_of_lt hin)
  refine ⟨t, (exec_storeRegs x s).trans hexec, hlen ▸ honly, fun r hr => ?_⟩
  rw [hcells r.toNat (by omega), getElem_regsThrough, State.readV]

/-- Settles O27: the load of the x + 1 bytes from I on into V0 to Vx, by `exec_loadRegs_ok` inside memory and
`exec_loadRegs_error` past it (R135). -/
theorem loadRegistersReadsRange : Obligations.LoadRegistersReadsRange := by
  intro x s
  refine ⟨decodeWord_loadRegs x, fun hin => ⟨_, exec_loadRegs_ok hin, rfl, fun r => ?_⟩,
    fun hpast => ⟨_, _, exec_loadRegs_error (Nat.lt_succ_of_le hpast), rfl, rfl⟩⟩
  simp only [readV_setV_writeRegs, Nat.lt_succ_iff]

/-- Settles O22: the answer is `s.setI (target nnn)`, and a 12-bit number is at most 0x0FFF (R130). -/
theorem setIndexZeroExtends : Obligations.SetIndexZeroExtends := fun nnn s =>
  have hI : (s.setI (target nnn)).I.toNat = nnn.toNat := toNat_target nnn
  ⟨decodeWord_ldI nnn, _, exec_ldI nnn s, hI, hI.le.trans (Nat.le_of_lt_succ nnn.isLt), rfl⟩

end Sys2Proof.Machine
end

section
/-!
The statement of 44_keys_timers.md about the delay timer: its two moves (R163, R164), and what is left of a written
value after some ticks (R191).
-/

namespace Sys2Proof.Machine

/-! ### The two moves -/

theorem decodeWord_ldVxDt (x : Reg) : decodeWord (encodeXK 0xF#4 x 0x07#8) = .ok (.ldVxDt x) := by
  rw [decodeWord_familyF, decodeFamilyF, fieldKk_encodeXK, fieldX_encodeXK]; rfl

theorem decodeWord_ldDtVx (x : Reg) : decodeWord (encodeXK 0xF#4 x 0x15#8) = .ok (.ldDtVx x) := by
  rw [decodeWord_familyF, decodeFamilyF, fieldKk_encodeXK, fieldX_encodeXK]; rfl

theorem exec_ldVxDt (x : Reg) (s : State) : exec (.ldVxDt x) s = .next (s.writeV x s.dt) := rfl

theorem exec_ldDtVx (x : Reg) (s : State) : exec (.ldDtVx x) s = .next (s.setDt (s.readV x)) := rfl

/-! ### Ticks -/

@[simp] theorem tickTimers_dt (s : State) : (tickTimers s).dt = tickByte s.dt := rfl

/-- One tick subtracts 1, floored at 0 (R191). -/
@[simp] theorem toNat_tickByte (b : Byte) : (tickByte b).toNat = b.toNat - 1 := by
  unfold tickByte
  split
  case isTrue hzero => rw [hzero]; rfl
  case isFalse hpos => bv_omega

/-- The floor at each tick is one floor at the end: natural subtraction composes (R163, R191). -/
theorem toNat_iterate_tickByte (n : Nat) (b : Byte) : (tickByte^[n] b).toNat = b.toNat - n := by
  induction n with
  | zero => rfl
  | succ n ih => rw [Function.iterate_succ_apply', toNat_tickByte, ih, Nat.sub_sub]

/-- The delay timer ticks on its own: nothing else in the state bears on it. -/
theorem iterate_tickTimers_dt (n : Nat) (s : State) : (tickTimers^[n] s).dt = tickByte^[n] s.dt :=
  Function.Semiconj.iterate_right (f := State.dt) tickTimers_dt n s

/-- Settles O35: FX07 is one register write of DT and FX15 one write of DT; what the ticks leave of the value written
is `toNat_iterate_tickByte` (R163, R164, R191). -/
theorem delayTimerMovesBothWays : Obligations.DelayTimerMovesBothWays := by
  intro x y s n
  refine ⟨decodeWord_ldVxDt x, decodeWord_ldDtVx x, ⟨_, exec_ldVxDt x s, regsBecome_writeV s x s.dt⟩,
    _, _, exec_ldDtVx x s, rfl, rfl, exec_ldVxDt y _, ?_⟩
  rw [State.readV_writeV_self, iterate_tickTimers_dt, toNat_iterate_tickByte, State.setDt_dt]

end Sys2Proof.Machine
end

section
/-!
The statements of 60_exceptions.md: the host's program load (R196) and the keyboard operations `key_down` (R192) and
`clear_signals` (R194).
-/

namespace Sys2Proof.Machine

/-! ### Block writes by the host -/

/-- A block the host writes inside memory stands from `a` on, and nothing else has changed (R55). -/
theorem writeBlock_readsBack {s : State} {a : Nat} {bs : List Byte} (hwf : MemCanonical s)
    (hbound : a + bs.length ≤ Config.memSize) :
    ∃ t, writeBlock a bs s = .next t ∧ OnlyMemChanges s t a bs.length ∧
      ∀ (j : Nat) (hj : j < bs.length), Memory.read t.mem (a + j) = bs[j] := by
  obtain ⟨m', hwrite, hframe, hcanonical⟩ := writeBytes_ok (m := s.mem) (Or.inr hbound)
  obtain ⟨-, hcells⟩ := hcanonical hwf
  have hblock : writeBlockBytes s.mem a bs = .ok m' := (writeBlockBytes_ok hbound).trans hwrite
  exact ⟨s.setMem m', writeBlock_ok hblock, ⟨rfl, hframe⟩, hcells⟩

/-- A block the host writes past the end of memory takes OutOfBounds, whatever its length (R55, R201). -/
theorem writeBlock_outOfBounds {s : State} {a : Nat} {bs : List Byte} (hpast : Config.memSize < a + bs.length) :
    writeBlock a bs s =
      .next (deadState ((FatalError.outOfBounds (max a Config.memSize)).record none none) s) :=
  writeBlock_error (writeBlockBytes_error hpast)

/-- A program ends inside memory exactly when it has at most 3584 bytes (R196). -/
theorem progStart_add_le_memSize_iff {n : Nat} : Config.progStart + n ≤ Config.memSize ↔ n ≤ 3584 := by
  simp only [Config.progStart, Config.memSize]
  omega

/-- Settles O54: the load is the block write at 0x200, by `writeBlock_readsBack` inside memory and
`writeBlock_outOfBounds` past it (R196). -/
theorem programLoadWritesOrFails : Obligations.ProgramLoadWritesOrFails := by
  intro s bytes hwf
  constructor
  · exact fun hlen => writeBlock_readsBack hwf (progStart_add_le_memSize_iff.mpr hlen)
  · intro hlen
    have hpast : Config.memSize < Config.progStart + bytes.length :=
      Nat.not_le.mp (mt progStart_add_le_memSize_iff.mp (Nat.not_le.mpr hlen))
    exact ⟨_, _, writeBlock_outOfBounds hpast, deadState_fault _ s, rfl⟩

/-! ### The Keyboard after `key_down` and `clear_signals` -/

@[simp] theorem Keyboard.keyDown_down (kb : Keyboard) (k : Key) : (kb.keyDown k).down = some k := rfl
@[simp] theorem Keyboard.keyDown_last (kb : Keyboard) (k : Key) : (kb.keyDown k).last = kb.last := rfl
@[simp] theorem Keyboard.keyDown_signal (kb : Keyboard) (k : Key) : (kb.keyDown k).signal = kb.signal := rfl

@[simp] theorem Keyboard.clearSignals_signal (kb : Keyboard) : kb.clearSignals.signal = false := rfl
@[simp] theorem Keyboard.clearSignals_last (kb : Keyboard) : kb.clearSignals.last = kb.last := rfl
@[simp] theorem Keyboard.clearSignals_down (kb : Keyboard) : kb.clearSignals.down = kb.down := rfl

/-- Settles O49: each operation writes one element, the field rules above (R192, R194). -/
theorem keyDownAndClearTouchOneElement : Obligations.KeyDownAndClearTouchOneElement := fun kb k =>
  ⟨kb.keyDown_down k, kb.keyDown_last k, kb.keyDown_signal k,
    kb.clearSignals_signal, kb.clearSignals_last, kb.clearSignals_down⟩

end Sys2Proof.Machine
end

section
/-!
The statements of 30_encoding.md: decode and encode (R70 to R83).
-/

namespace Sys2Proof.Machine

/-! ### The fields of a word, as numbers and put together again -/

theorem toNat_fieldN3 (w : Word) : (fieldN3 w).toNat = w.toNat / 4096 := by
  have := w.isLt
  rw [fieldN3, BitVec.extractLsb'_toNat, Nat.shiftRight_eq_div_pow]
  omega

theorem toNat_fieldN (w : Word) : (fieldN w).toNat = w.toNat % 16 := by
  rw [fieldN, BitVec.extractLsb'_toNat, Nat.shiftRight_zero]

theorem toNat_fieldKk (w : Word) : (fieldKk w).toNat = w.toNat % 256 := by
  rw [fieldKk, BitVec.extractLsb'_toNat, Nat.shiftRight_zero]

theorem toNat_fieldX (w : Word) : (fieldX w).toNat = w.toNat / 256 % 16 := by
  rw [fieldX, BitVec.extractLsb'_toNat, Nat.shiftRight_eq_div_pow]

theorem toNat_fieldY (w : Word) : (fieldY w).toNat = w.toNat / 16 % 16 := by
  rw [fieldY, BitVec.extractLsb'_toNat, Nat.shiftRight_eq_div_pow]

theorem toNat_fieldNnn (w : Word) : (fieldNnn w).toNat = w.toNat % 4096 := by
  rw [fieldNnn, BitVec.extractLsb'_toNat, Nat.shiftRight_zero]

theorem encodeA_fields (w : Word) : encodeA (fieldN3 w) (fieldNnn w) = w := by
  apply BitVec.eq_of_toNat_eq
  rw [toNat_encodeA, toNat_fieldN3, toNat_fieldNnn]
  omega

theorem encodeXK_fields (w : Word) : encodeXK (fieldN3 w) (fieldX w) (fieldKk w) = w := by
  apply BitVec.eq_of_toNat_eq
  rw [toNat_encodeXK, toNat_fieldN3, toNat_fieldX, toNat_fieldKk]
  omega

theorem encodeXYN_fields (w : Word) : encodeXYN (fieldN3 w) (fieldX w) (fieldY w) (fieldN w) = w := by
  apply BitVec.eq_of_toNat_eq
  rw [toNat_encodeXYN, toNat_fieldN3, toNat_fieldX, toNat_fieldY, toNat_fieldN]
  omega

/-! ### Decoding the word of each instruction -/

theorem decodeWord_call (nnn : Addr) : decodeWord (encodeA 0x2#4 nnn) = .ok (.call nnn) := by
  rw [decodeWord, fieldN3_encodeA, fieldNnn_encodeA]; rfl

/-- The low nibble of 5XY_ is ignored (R81). -/
theorem decodeWord_seReg (x y : Reg) (n : Nibble) : decodeWord (encodeXYN 0x5#4 x y n) = .ok (.seReg x y) := by
  rw [decodeWord, fieldN3_encodeXYN, fieldX_encodeXYN, fieldY_encodeXYN]; rfl

/-- The low nibble of 9XY_ is ignored (R81). -/
theorem decodeWord_sneReg (x y : Reg) (n : Nibble) : decodeWord (encodeXYN 0x9#4 x y n) = .ok (.sneReg x y) := by
  rw [decodeWord, fieldN3_encodeXYN, fieldX_encodeXYN, fieldY_encodeXYN]; rfl

theorem decodeWord_rnd (x : Reg) (kk : Byte) : decodeWord (encodeXK 0xC#4 x kk) = .ok (.rnd x kk) := by
  rw [decodeWord, fieldN3_encodeXK, fieldX_encodeXK, fieldKk_encodeXK]; rfl

theorem decodeWord_drw (x y : Reg) (n : Nibble) : decodeWord (encodeXYN 0xD#4 x y n) = .ok (.drw x y n) := by
  rw [decodeWord, fieldN3_encodeXYN, fieldX_encodeXYN, fieldY_encodeXYN, fieldN_encodeXYN]; rfl

/-- Family 0xE is told apart by the low byte (R74). -/
theorem decodeWord_familyE (x : Reg) (kk : Byte) :
    decodeWord (encodeXK 0xE#4 x kk) = decodeFamilyE (encodeXK 0xE#4 x kk) := by
  rw [decodeWord, fieldN3_encodeXK]; rfl

/-- The decoder undoes the encoder, row by row of the table (R75); the rows of families 0x8, 0xE and 0xF are those of
their second discriminants. -/
theorem decodeWord_encode (i : Instr) : decodeWord (encode i) = .ok i := by
  cases i with
  | cls | ret => rfl
  | jp nnn => exact decodeWord_jp nnn
  | call nnn => exact decodeWord_call nnn
  | ldI nnn => exact decodeWord_ldI nnn
  | seImm x kk => exact decodeWord_seImm x kk
  | sneImm x kk => exact decodeWord_sneImm x kk
  | ldImm x kk => exact decodeWord_ldImm x kk
  | addImm x kk => exact decodeWord_addImm x kk
  | rnd x kk => exact decodeWord_rnd x kk
  | seReg x y => exact decodeWord_seReg x y _
  | sneReg x y => exact decodeWord_sneReg x y _
  | drw x y n => exact decodeWord_drw x y n
  | ldReg x y | orReg x y | andReg x y | xorReg x y | addReg x y | subReg x y | shr x y | subn x y | shl x y =>
    rw [encode, decodeWord_family8, decodeFamily8, fieldN_encodeXYN, fieldX_encodeXYN, fieldY_encodeXYN]; rfl
  | skp x | sknp x =>
    rw [encode, decodeWord_familyE, decodeFamilyE, fieldKk_encodeXK, fieldX_encodeXK]; rfl
  | ldVxDt x | ldDtVx x | ldStVx x | addI x | ldVxK x | ldF x | ldB x | storeRegs x | loadRegs x =>
    rw [encode, decodeWord_familyF, decodeFamilyF, fieldKk_encodeXK, fieldX_encodeXK]; rfl

/-- On the two bytes of a word and any bytes after them, the decoder on bytes is the decoder on words (R70). -/
theorem decode_bytesOfWord {w : Word} {i : Instr} (rest : List Byte) (h : decodeWord w = .ok i) :
    decode (bytesOfWord w ++ rest) = .ok (i, rest) := by
  simp only [bytesOfWord, List.cons_append, List.nil_append, decode, wordOfBytes_bytesOfWord, h]

/-- Settles O1: `decodeWord_encode` on words, and `decode_bytesOfWord` on the word's two bytes. -/
theorem decodeOfEncodeIsIdentity : Obligations.DecodeOfEncodeIsIdentity := fun i rest _ =>
  ⟨decodeWord_encode i, decode_bytesOfWord rest (decodeWord_encode i)⟩

/-! ### Encoding what a word decodes to -/

/-- The canonical word of a word: in families 0x5 and 0x9 the ignored low nibble is 0 (R81). -/
def canonicalWord (w : Word) : Word :=
  if fieldN3 w = 0x5#4 ∨ fieldN3 w = 0x9#4 then encodeXYN (fieldN3 w) (fieldX w) (fieldY w) 0x0#4 else w

theorem toNat_canonicalWord (w : Word) :
    (canonicalWord w).toNat =
      if w.toNat / 4096 = 5 ∨ w.toNat / 4096 = 9 then w.toNat / 16 * 16 else w.toNat := by
  have := w.isLt
  simp only [canonicalWord, ← BitVec.toNat_inj, toNat_fieldN3, BitVec.toNat_ofNat, apply_ite BitVec.toNat,
    toNat_encodeXYN, toNat_fieldX, toNat_fieldY]
  split <;> omega

theorem encode_of_decodeFamily0 {w : Word} {i : Instr} (h : decodeFamily0 w = .ok i) : encode i = w := by
  unfold decodeFamily0 at h
  split_ifs at h with hcls hret
  · cases h; exact hcls.symm
  · cases h; exact hret.symm

theorem encode_of_decodeFamily8 {w : Word} {i : Instr} (h3 : fieldN3 w = 0x8#4) (h : decodeFamily8 w = .ok i) :
    encode i = w := by
  rw [← encodeXYN_fields w, h3]
  unfold decodeFamily8 at h
  split at h <;> cases h <;> simp only [encode, *]

theorem encode_of_decodeFamilyE {w : Word} {i : Instr} (h3 : fieldN3 w = 0xE#4) (h : decodeFamilyE w = .ok i) :
    encode i = w := by
  rw [← encodeXK_fields w, h3]
  unfold decodeFamilyE at h
  split at h <;> cases h <;> simp only [encode, *]

theorem encode_of_decodeFamilyF {w : Word} {i : Instr} (h3 : fieldN3 w = 0xF#4) (h : decodeFamilyF w = .ok i) :
    encode i = w := by
  rw [← encodeXK_fields w, h3]
  unfold decodeFamilyF at h
  split at h <;> cases h <;> simp only [encode, *]

/-- The encoder gives back the canonical word of what decodes, family by family (R72, R75). -/
theorem encode_of_decodeWord {w : Word} {i : Instr} (h : decodeWord w = .ok i) : encode i = canonicalWord w := by
  have hA := encodeA_fields w
  have hXK := encodeXK_fields w
  have hXYN := encodeXYN_fields w
  unfold decodeWord at h
  split at h
  -- The families with a second discriminant, 0x0, 0x8, 0xE and 0xF; and 0xB, which decodes to nothing.
  case h_1 h3 => simpa [canonicalWord, h3] using encode_of_decodeFamily0 h
  case h_9 h3 => simpa [canonicalWord, h3] using encode_of_decodeFamily8 h3 h
  case h_14 h3 => simpa [canonicalWord, h3] using encode_of_decodeFamilyE h3 h
  case h_15 h3 => simpa [canonicalWord, h3] using encode_of_decodeFamilyF h3 h
  case h_16 => cases h
  -- Families 0x5 and 0x9, the ignored nibble; 0xD (format XYN); then formats A and XK.
  case h_6 h3 | h_10 h3 => cases h; simp [canonicalWord, h3, encode]
  case h_13 h3 => cases h; simpa [canonicalWord, h3, encode] using hXYN
  case h_2 h3 | h_3 h3 | h_11 h3 => cases h; simpa [canonicalWord, h3, encode] using hA
  case h_4 h3 | h_5 h3 | h_7 h3 | h_8 h3 | h_12 h3 => cases h; simpa [canonicalWord, h3, encode] using hXK

/-- Settles O2: the encoding is the canonical word, whose number is `toNat_canonicalWord`. -/
theorem encodeOfDecodeIsCanonicalWord : Obligations.EncodeOfDecodeIsCanonicalWord := fun w _ h =>
  (congrArg BitVec.toNat (encode_of_decodeWord h)).trans (toNat_canonicalWord w)

/-! ### The words that decode to nothing -/

theorem decodeFamily0_unknown_iff (w : Word) :
    decodeFamily0 w = .error (.unknownOpcode w) ↔ w ≠ 0x00E0#16 ∧ w ≠ 0x00EE#16 := by
  unfold decodeFamily0
  split_ifs with hcls hret <;> simp [*]

theorem decodeFamily8_unknown_iff (w : Word) :
    decodeFamily8 w = .error (.unknownOpcode w) ↔
      (fieldN w).toNat ∈ [0x8, 0x9, 0xA, 0xB, 0xC, 0xD, 0xF] := by
  unfold decodeFamily8
  split
  case h_10 =>
    have := (fieldN w).isLt
    simp only [imp_false, ← BitVec.toNat_inj, BitVec.toNat_ofNat] at *
    simp only [true_iff, List.mem_cons, List.not_mem_nil, or_false]
    omega
  all_goals simp [*]

theorem decodeFamilyE_unknown_iff (w : Word) :
    decodeFamilyE w = .error (.unknownOpcode w) ↔ (fieldKk w).toNat ∉ [0x9E, 0xA1] := by
  unfold decodeFamilyE
  split
  case h_3 => simp_all [← BitVec.toNat_inj]
  all_goals simp [*]

theorem decodeFamilyF_unknown_iff (w : Word) :
    decodeFamilyF w = .error (.unknownOpcode w) ↔
      (fieldKk w).toNat ∉ [0x07, 0x0A, 0x15, 0x18, 0x1E, 0x29, 0x33, 0x55, 0x65] := by
  unfold decodeFamilyF
  split
  case h_10 => simp_all [← BitVec.toNat_inj]
  all_goals simp [*]

/-- A word decodes or is unknown: no other error is the decoder's (R77). -/
theorem decodeWord_ok_or_unknown (w : Word) :
    (∃ i, decodeWord w = .ok i) ∨ decodeWord w = .error (.unknownOpcode w) := by
  unfold decodeWord decodeFamily0 decodeFamily8 decodeFamilyE decodeFamilyF
  repeat' split
  all_goals simp

/-- The unknown words by their fields, family by family (R77). -/
theorem decodeWord_unknown_iff (w : Word) :
    decodeWord w = .error (.unknownOpcode w) ↔
      (fieldN3 w = 0x0#4 ∧ decodeFamily0 w = .error (.unknownOpcode w)) ∨
      (fieldN3 w = 0x8#4 ∧ decodeFamily8 w = .error (.unknownOpcode w)) ∨
      fieldN3 w = 0xB#4 ∨
      (fieldN3 w = 0xE#4 ∧ decodeFamilyE w = .error (.unknownOpcode w)) ∨
      (fieldN3 w = 0xF#4 ∧ decodeFamilyF w = .error (.unknownOpcode w)) := by
  unfold decodeWord
  split
  case h_16 =>
    have := (fieldN3 w).isLt
    refine iff_of_true rfl (.inr (.inr (.inl ?_)))
    simp only [imp_false, ← BitVec.toNat_inj, BitVec.toNat_ofNat] at *
    omega
  all_goals simp [*]

/-- Settles O3: the five classes are the families of `decodeWord_unknown_iff`, each with its second discriminant. -/
theorem unknownWordsAreExactlyListed : Obligations.UnknownWordsAreExactlyListed := by
  intro w
  refine ⟨?_, fun h => (decodeWord_ok_or_unknown w).resolve_right h⟩
  rw [decodeWord_unknown_iff, decodeFamily0_unknown_iff, decodeFamily8_unknown_iff, decodeFamilyE_unknown_iff,
    decodeFamilyF_unknown_iff]
  simp only [← toNat_fieldN3, ← toNat_fieldN, ← toNat_fieldKk, ne_eq, ← BitVec.toNat_inj, BitVec.toNat_ofNat,
    Nat.reducePow, Nat.reduceMod]

/-- Settles O4: eleven closed decodings (95_test_vectors.md S1, E2 to E17). -/
theorem sampleWordsDecode : Obligations.SampleWordsDecode := by
  unfold Obligations.SampleWordsDecode
  decide

end Sys2Proof.Machine
end

section
/-!
Everything one execution can do, said once: the effect of an instruction that completes, the error each of the six
instructions that can fail raises, and the one refusal (60_exceptions.md R171, R177).
-/

namespace Sys2Proof.Machine

/-! ### Kinds of instructions -/

/-- `i` writes `V[x]`, no flag and nothing else (10_state.md R22). -/
inductive WritesReg : Instr → Reg → Prop where
  | ldImm (x : Reg) (kk : Byte) : WritesReg (.ldImm x kk) x
  | addImm (x : Reg) (kk : Byte) : WritesReg (.addImm x kk) x
  | ldReg (x y : Reg) : WritesReg (.ldReg x y) x
  | orReg (x y : Reg) : WritesReg (.orReg x y) x
  | andReg (x y : Reg) : WritesReg (.andReg x y) x
  | xorReg (x y : Reg) : WritesReg (.xorReg x y) x
  | ldVxDt (x : Reg) : WritesReg (.ldVxDt x) x
  | ldVxK (x : Reg) : WritesReg (.ldVxK x) x

/-- `i` writes its result to `V[x]` and then a flag to VF (41_alu.md R111). -/
inductive WritesResultFlag : Instr → Reg → Prop where
  | addReg (x y : Reg) : WritesResultFlag (.addReg x y) x
  | subReg (x y : Reg) : WritesResultFlag (.subReg x y) x
  | subn (x y : Reg) : WritesResultFlag (.subn x y) x
  | shr (x y : Reg) : WritesResultFlag (.shr x y) x
  | shl (x y : Reg) : WritesResultFlag (.shl x y) x

/-- `i` is one of the six skips (40_flow.md R108). -/
inductive Skips : Instr → Prop where
  | seImm (x : Reg) (kk : Byte) : Skips (.seImm x kk)
  | sneImm (x : Reg) (kk : Byte) : Skips (.sneImm x kk)
  | seReg (x y : Reg) : Skips (.seReg x y)
  | sneReg (x y : Reg) : Skips (.sneReg x y)
  | skp (x : Reg) : Skips (.skp x)
  | sknp (x : Reg) : Skips (.sknp x)

/-- `i` replaces I by a value of its own (42_index_memory.md R130, R132). -/
inductive SetsIndex : Instr → Prop where
  | ldI (nnn : Addr) : SetsIndex (.ldI nnn)
  | ldF (x : Reg) : SetsIndex (.ldF x)

/-- `i` writes bytes to memory from I on (R133, R134). -/
inductive StoresAtI : Instr → Prop where
  | ldB (x : Reg) : StoresAtI (.ldB x)
  | storeRegs (x : Reg) : StoresAtI (.storeRegs x)

/-- `i` can raise `e` (60_exceptions.md R171 and the priority of section 1). -/
inductive Raises : Instr → FatalError → Prop where
  | ret : Raises .ret .stackUnderflow
  | call (nnn : Addr) : Raises (.call nnn) .stackOverflow
  | drw (x y : Reg) (n : Nibble) (a : Nat) : Raises (.drw x y n) (.outOfBounds a)
  | ldB (x : Reg) (a : Nat) : Raises (.ldB x) (.outOfBounds a)
  | storeRegs (x : Reg) (a : Nat) : Raises (.storeRegs x) (.outOfBounds a)
  | loadRegs (x : Reg) (a : Nat) : Raises (.loadRegs x) (.outOfBounds a)

/-! ### The effect of an execution -/

/-- From `s` the instruction completes without an error in the state given: one constructor per kind of effect. -/
inductive Completes (s : State) : Instr → State → Prop where
  | writeReg {i : Instr} {x : Reg} (kind : WritesReg i x) (b : Byte) : Completes s i (s.writeV x b)
  | writeResultFlag {i : Instr} {x : Reg} (kind : WritesResultFlag i x) (r : Byte × Bool) :
      Completes s i (s.writeResultFlag x r)
  | draw (x : Reg) (kk b : Byte) : Completes s (.rnd x kk) (s.countFree.writeV x b)
  | loadRegs (x : Reg) (bs : List Byte) (len : bs.length = x.toNat + 1) :
      Completes s (.loadRegs x) (s.setV (writeRegs 0 bs s.v))
  | skip {i : Instr} (kind : Skips i) (c : Bool) : Completes s i (s.skipIf c)
  | jump (nnn : Addr) : Completes s (.jp nnn) (s.setPc (target nnn))
  | rewind (x : Reg) : Completes s (.ldVxK x) s.rewind
  | call (nnn : Addr) (t : State) (push : s.push s.pc = .ok t) : Completes s (.call nnn) (t.setPc (target nnn))
  | ret (ra : Word) (t : State) (pop : s.pop = .ok (ra, t)) : Completes s .ret (t.setPc ra)
  | setIndex {i : Instr} (kind : SetsIndex i) (w : Word) : Completes s i (s.setI w)
  | addIndex (x : Reg) (w : Word) (exceeds : Bool) :
      Completes s (.addI x) ((s.setI w).writeV VF (indexFlag addiFlagMode exceeds (s.readV VF)))
  | setDt (x : Reg) : Completes s (.ldDtVx x) (s.setDt (s.readV x))
  | setSt (x : Reg) : Completes s (.ldStVx x) (s.setSt (s.readV x))
  | store {i : Instr} (kind : StoresAtI i) (bs : List Byte) (m : Memory)
      (write : writeBytes s.mem s.I.toNat bs = .ok m) : Completes s i (s.setMem m)
  | clear : Completes s .cls (s.setDisplay s.display.clear)
  | drawSprite (x y : Reg) (n : Nibble) (d : Display) (b : Byte) :
      Completes s (.drw x y n) ((s.setDisplay d).writeV VF b)

/-- Everything executing `i` in `s` can answer. -/
inductive ExecOutcome (i : Instr) (s : State) : Answer → Prop where
  | completes {t : State} (effect : Completes s i t) : ExecOutcome i s (.next t)
  | raises {e : FatalError} (kind : Raises i e) :
      ExecOutcome i s (.next (deadState (e.record (some (s.pc - 2)) (some (encode i))) s))
  | refused (signal : s.kb.signal = true) (last : s.kb.last = none) :
      ExecOutcome i s (.refused .keySignalWithoutKey)

/-! ### What the instructions with more than one answer answer -/

theorem exec_ret (s : State) : exec .ret s = complete (encode .ret) s (s.pop.map fun p => p.2.setPc p.1) := rfl

theorem exec_call (nnn : Addr) (s : State) :
    exec (.call nnn) s = complete (encode (.call nnn)) s ((s.push s.pc).map fun t => t.setPc (target nnn)) := rfl

/-- The display with the sprite `rows` drawn at the place V[x] and V[y] name (R141, R142). -/
def State.drawnDisplay (s : State) (x y : Reg) (rows : List Byte) : Display :=
  drawRows drawVwrap (startCol (s.readV x)) (startRow (s.readV y)) 0 rows s.display.beginDraw

/-- The state after the sprite `rows` is drawn: dirty marked, VF the collision (R148, R149). -/
def State.drawn (s : State) (x y : Reg) (rows : List Byte) : State :=
  (s.setDisplay (s.drawnDisplay x y rows).markDirty).writeV VF (flagByte (s.drawnDisplay x y rows).collision)

theorem exec_drw (x y : Reg) (n : Nibble) (s : State) :
    exec (.drw x y n) s =
      complete (encode (.drw x y n)) s ((readBytes s.mem s.I.toNat n.toNat).map (s.drawn x y)) := rfl

theorem exec_ldVxK (x : Reg) (s : State) : exec (.ldVxK x) s = execLdVxK x s := rfl

theorem exec_ldVxK_of_release (x : Reg) {s : State} {k : Key} (hsignal : s.kb.signal = true)
    (hlast : s.kb.last = some k) : exec (.ldVxK x) s = .next (s.writeV x (keyByte k)) := by
  rw [exec_ldVxK, execLdVxK, hsignal, hlast]

theorem exec_ldVxK_of_signal_without_key (x : Reg) {s : State} (hsignal : s.kb.signal = true)
    (hlast : s.kb.last = none) : exec (.ldVxK x) s = .refused .keySignalWithoutKey := by
  rw [exec_ldVxK, execLdVxK, hsignal, hlast]

theorem exec_ldVxK_of_no_signal (x : Reg) {s : State} (hsignal : s.kb.signal = false) :
    exec (.ldVxK x) s = .next s.rewind := by
  rw [exec_ldVxK, execLdVxK, hsignal]

/-! ### Every execution has one of these outcomes -/

/-- Everything a sequence of single-byte reads can do (20_memory.md R59). -/
theorem readBytes_cases (m : Memory) (a n : Nat) :
    (∃ bs, readBytes m a n = .ok bs ∧ bs.length = n) ∨ ∃ c, readBytes m a n = .error (.outOfBounds c) := by
  by_cases h : n = 0 ∨ a + n ≤ Config.memSize
  · exact .inl ⟨_, readBytes_ok h, by simp⟩
  · exact .inr ⟨_, readBytes_error (by omega) (by omega)⟩

/-- Everything a sequence of single-byte writes can do (R59). -/
theorem writeBytes_cases (m : Memory) (a : Nat) (bs : List Byte) :
    (∃ m', writeBytes m a bs = .ok m') ∨ ∃ c, writeBytes m a bs = .error (.outOfBounds c) := by
  by_cases h : bs = [] ∨ a + bs.length ≤ Config.memSize
  · obtain ⟨m', hm', -⟩ := writeBytes_ok (m := m) h
    exact .inl ⟨m', hm'⟩
  · obtain ⟨hne, hpast⟩ := not_or.mp h
    exact .inr ⟨_, writeBytes_error hne (Nat.not_le.mp hpast)⟩

/-- A store from I on completes or leaves memory (R136). -/
theorem execOutcome_storeAtI {i : Instr} {s : State} (kind : StoresAtI i) (herr : ∀ a, Raises i (.outOfBounds a))
    (bs : List Byte) : ExecOutcome i s (storeAtI (encode i) bs s) := by
  rw [storeAtI]
  obtain ⟨m, h⟩ | ⟨c, h⟩ := writeBytes_cases s.mem s.I.toNat bs
  · rw [h]; exact .completes (.store kind bs m h)
  · rw [h]; exact .raises (herr c)

theorem execOutcome_loadRegs (x : Reg) (s : State) : ExecOutcome (.loadRegs x) s (exec (.loadRegs x) s) := by
  rw [exec_loadRegs]
  obtain ⟨bs, h, hlen⟩ | ⟨c, h⟩ := readBytes_cases s.mem s.I.toNat (x.toNat + 1)
  · rw [h]; exact .completes (.loadRegs x bs hlen)
  · rw [h]; exact .raises (.loadRegs x c)

theorem execOutcome_drw (x y : Reg) (n : Nibble) (s : State) : ExecOutcome (.drw x y n) s (exec (.drw x y n) s) := by
  rw [exec_drw]
  obtain ⟨rows, h, -⟩ | ⟨c, h⟩ := readBytes_cases s.mem s.I.toNat n.toNat
  · rw [h]; exact .completes (.drawSprite x y n _ _)
  · rw [h]; exact .raises (.drw x y n c)

theorem execOutcome_ret (s : State) : ExecOutcome .ret s (exec .ret s) := by
  rw [exec_ret]
  cases h : s.pop with
  | ok p => exact .completes (.ret p.1 p.2 h)
  | error e =>
    obtain ⟨-, he⟩ | ⟨_, _, -, he⟩ := pop_cases h
    · cases he; exact .raises .ret
    · cases he

theorem execOutcome_call (nnn : Addr) (s : State) : ExecOutcome (.call nnn) s (exec (.call nnn) s) := by
  rw [exec_call]
  cases h : s.push s.pc with
  | ok t => exact .completes (.call nnn t h)
  | error e =>
    obtain ⟨_, he⟩ | ⟨-, he⟩ := push_cases h
    · cases he
    · cases he; exact .raises (.call nnn)

theorem execOutcome_ldVxK (x : Reg) (s : State) : ExecOutcome (.ldVxK x) s (exec (.ldVxK x) s) := by
  cases hsignal : s.kb.signal with
  | false => rw [exec_ldVxK_of_no_signal x hsignal]; exact .completes (.rewind x)
  | true =>
    cases hlast : s.kb.last with
    | some k => rw [exec_ldVxK_of_release x hsignal hlast]; exact .completes (.writeReg (.ldVxK x) _)
    | none => rw [exec_ldVxK_of_signal_without_key x hsignal hlast]; exact .refused hsignal hlast

/-- Executing an instruction completes, raises its own error, or is the refused FX0A. -/
theorem exec_outcome (i : Instr) (s : State) : ExecOutcome i s (exec i s) := by
  cases i with
  | cls => exact .completes .clear
  | ret => exact execOutcome_ret s
  | jp nnn => exact .completes (.jump nnn)
  | call nnn => exact execOutcome_call nnn s
  | seImm x kk => exact .completes (.skip (.seImm x kk) _)
  | sneImm x kk => exact .completes (.skip (.sneImm x kk) _)
  | seReg x y => exact .completes (.skip (.seReg x y) _)
  | sneReg x y => exact .completes (.skip (.sneReg x y) _)
  | skp x => exact .completes (.skip (.skp x) _)
  | sknp x => exact .completes (.skip (.sknp x) _)
  | ldImm x kk => exact .completes (.writeReg (.ldImm x kk) _)
  | addImm x kk => exact .completes (.writeReg (.addImm x kk) _)
  | ldReg x y => exact .completes (.writeReg (.ldReg x y) _)
  | orReg x y => exact .completes (.writeReg (.orReg x y) _)
  | andReg x y => exact .completes (.writeReg (.andReg x y) _)
  | xorReg x y => exact .completes (.writeReg (.xorReg x y) _)
  | ldVxDt x => exact .completes (.writeReg (.ldVxDt x) _)
  | ldVxK x => exact execOutcome_ldVxK x s
  | addReg x y => exact .completes (.writeResultFlag (.addReg x y) _)
  | subReg x y => exact .completes (.writeResultFlag (.subReg x y) _)
  | subn x y => exact .completes (.writeResultFlag (.subn x y) _)
  | shr x y => exact .completes (.writeResultFlag (.shr x y) _)
  | shl x y => exact .completes (.writeResultFlag (.shl x y) _)
  | rnd x kk => exact .completes (.draw x kk _)
  | ldI nnn => exact .completes (.setIndex (.ldI nnn) _)
  | ldF x => exact .completes (.setIndex (.ldF x) _)
  | addI x => exact .completes (.addIndex x _ _)
  | ldDtVx x => exact .completes (.setDt x)
  | ldStVx x => exact .completes (.setSt x)
  | ldB x => exact execOutcome_storeAtI (.ldB x) (.ldB x) _
  | storeRegs x => exact execOutcome_storeAtI (.storeRegs x) (.storeRegs x) _
  | loadRegs x => exact execOutcome_loadRegs x s
  | drw x y n => exact execOutcome_drw x y n s

/-- What a next state of an execution is. -/
theorem exec_next_cases {i : Instr} {s t : State} (h : exec i s = .next t) :
    Completes s i t ∨
      ∃ e, Raises i e ∧ t = deadState (e.record (some (s.pc - 2)) (some (encode i))) s := by
  have outcome := exec_outcome i s
  rw [h] at outcome
  cases outcome with
  | completes effect => exact .inl effect
  | raises kind => exact .inr ⟨_, kind, rfl⟩

/-! ### What completing leaves -/

/-- A push that completes changes the stack alone. -/
theorem push_frame {s t : State} {ra : Word} (h : s.push ra = .ok t) :
    t = { s with stack := t.stack, sp := t.sp } := by
  obtain ⟨_, ht⟩ | ⟨-, ht⟩ := push_cases h
  · cases ht; rfl
  · cases ht

/-- A pop that completes changes the stack alone. -/
theorem pop_frame {s t : State} {ra : Word} (h : s.pop = .ok (ra, t)) :
    t = { s with stack := t.stack, sp := t.sp } := by
  obtain ⟨-, ht⟩ | ⟨_, _, -, ht⟩ := pop_cases h
  · cases ht
  · cases ht; rfl

/-- Completing records no fault and takes none away (60_exceptions.md R174). -/
theorem Completes.fault {s t : State} {i : Instr} (h : Completes s i t) : t.fault = s.fault := by
  cases h with
  | call _ t push => rw [push_frame push]; rfl
  | ret _ t pop => rw [pop_frame pop]; rfl
  | skip => exact State.skipIf_fault _ _
  | _ => rfl

end Sys2Proof.Machine
end

section
/-!
The frames of an execution: what an instruction that completes can change (10_state.md sections 1 to 7, 20_memory.md
section 3), and which can raise an error (60_exceptions.md section 1).
-/

namespace Sys2Proof.Machine

/-- From a running machine to a running one an execution has completed: an error leaves a record (R174). -/
theorem completes_of_running {i : Instr} {s t : State} (h : exec i s = .next t) (ht : Running t) :
    Completes s i t := by
  obtain effect | ⟨e, -, rfl⟩ := exec_next_cases h
  · exact effect
  · cases ht

/-- Settles O41: a record is left by `Raises` alone, whose six rows are the instructions named, each with its code. -/
theorem onlySixInstructionsRaiseErrors : Obligations.OnlySixInstructionsRaiseErrors := by
  intro i s t r hs h hr
  obtain effect | ⟨e, kind, rfl⟩ := exec_next_cases h
  · rw [effect.fault, hs] at hr; cases hr
  · cases hr
    cases kind with
    | ret => exact .inl ⟨rfl, rfl⟩
    | call nnn => exact .inr (.inl ⟨⟨nnn, rfl⟩, rfl⟩)
    | drw x y n => exact .inr (.inr ⟨.inl ⟨x, y, n, rfl⟩, rfl⟩)
    | ldB x => exact .inr (.inr ⟨.inr (.inl ⟨x, rfl⟩), rfl⟩)
    | storeRegs x => exact .inr (.inr ⟨.inr (.inr (.inl ⟨x, rfl⟩)), rfl⟩)
    | loadRegs x => exact .inr (.inr ⟨.inr (.inr (.inr ⟨x, rfl⟩)), rfl⟩)

/-- Settles O46: each effect of `Completes` writes the elements it names and keeps the others, by the field rules of
its update; the two stack operations by `push_frame` and `pop_frame`. -/
theorem onlyNamedInstructionsChangeState : Obligations.OnlyNamedInstructionsChangeState := by
  intro i s t hs h ht
  cases completes_of_running h ht with
  | skip kind | setIndex kind | store kind => cases kind <;> simp
  | call nnn u push => rw [push_frame push]; simp
  | ret ra u pop => rw [pop_frame pop]; simp
  | writeReg | writeResultFlag | draw | loadRegs | jump | rewind | addIndex | setDt | setSt | clear | drawSprite => simp

/-! ### VF -/

/-- A register that is not written is kept, so a write that changes VF is a write of VF. -/
theorem eq_VF_of_readV_ne {s : State} {x : Reg} {b : Byte} (h : (s.writeV x b).readV VF ≠ s.readV VF) : x = VF := by
  by_contra hx
  exact h (by rw [State.readV_writeV, if_neg hx])

/-- A register range that leaves out VF leaves VF alone (42_index_memory.md R135). -/
theorem eq_VF_of_loadRegs_ne {s : State} {x : Reg} {bs : List Byte} (hlen : bs.length = x.toNat + 1)
    (h : (s.setV (writeRegs 0 bs s.v)).readV VF ≠ s.readV VF) : x = VF := by
  by_contra hx
  have hlt : ¬ VF.toNat < bs.length := by bv_omega
  have hkept : (writeRegs 0 bs s.v)[VF.toNat] = s.v[VF.toNat] := by
    rw [getElem_writeRegs bs 0 s.v VF.toNat VF.isLt, dif_neg fun h => hlt h.2]
  exact h hkept

/-- Settles O47: by the registers each effect of `Completes` writes; a register write that changes VF has VF as its
destination, and FX1E in mode NONE writes VF back as it was (R131). -/
theorem onlyListedInstructionsChangeFlagRegister : Obligations.OnlyListedInstructionsChangeFlagRegister := by
  intro i s t hs h ht hne
  cases completes_of_running h ht with
  | writeReg kind b =>
    cases eq_VF_of_readV_ne hne
    cases kind <;> simp
  | draw x kk b =>
    cases eq_VF_of_readV_ne (s := s.countFree) hne
    simp
  | writeResultFlag kind => cases kind <;> simp
  | loadRegs x bs hlen =>
    cases eq_VF_of_loadRegs_ne hlen hne
    simp
  | addIndex x w exceeds =>
    have hmode : addiFlagMode ≠ .none := fun hnone => hne (by simp [hnone, indexFlag])
    simp [hmode]
  | drawSprite x y n => simp
  | skip kind c => exact absurd (State.readV_skipIf s c _) hne
  | call nnn u push => exact absurd (by rw [push_frame push]; rfl) hne
  | ret ra u pop => exact absurd (by rw [pop_frame pop]; rfl) hne
  | jump | rewind | setIndex | setDt | setSt | store | clear => exact absurd rfl hne

end Sys2Proof.Machine
end

section
/-!
Everything one step can do, said once: the CPU's step and the host's operations (10_state.md R40, 60_exceptions.md
R190); and from it the two invariants, of memory's form (log 19) and of a running machine (R26, R28, R35).
-/

namespace Sys2Proof.Machine

/-! ### Writes keep the canonical form -/

theorem writeBytes_wf {m m' : Memory} {a : Nat} {bs : List Byte} (hwf : Memory.wf m = true)
    (h : writeBytes m a bs = .ok m') : Memory.wf m' = true := by
  by_cases hin : bs = [] ∨ a + bs.length ≤ Config.memSize
  · obtain ⟨m'', hm'', -, hcanonical⟩ := writeBytes_ok (m := m) hin
    cases hm''.symm.trans h
    exact (hcanonical hwf).1
  · obtain ⟨hne, hpast⟩ := not_or.mp hin
    rw [writeBytes_error hne (Nat.not_le.mp hpast)] at h
    cases h

theorem writeBlockBytes_wf {m m' : Memory} {a : Nat} {bs : List Byte} (hwf : Memory.wf m = true)
    (h : writeBlockBytes m a bs = .ok m') : Memory.wf m' = true := by
  by_cases hin : a + bs.length ≤ Config.memSize
  · exact writeBytes_wf hwf (writeBlockBytes_ok hin ▸ h)
  · rw [writeBlockBytes_error (Nat.not_le.mp hin)] at h
    cases h

theorem memWrite_wf {m m' : Memory} {a : Nat} {v : Byte} (hwf : Memory.wf m = true)
    (h : memWrite m a v = .ok m') : Memory.wf m' = true :=
  writeBytes_wf (bs := [v]) hwf (by rw [writeBytes, h]; rfl)

/-- Settles O58: the sequence by `writeBytes_ok`; a byte is a sequence of one, and a block inside the bound is a
sequence. -/
theorem writesKeepMemoryCanonical : Obligations.WritesKeepMemoryCanonical := fun _ _ _ _ _ hwf =>
  ⟨memWrite_wf hwf, writeBytes_wf hwf, writeBlockBytes_wf hwf⟩

/-! ### The outcomes of a step -/

/-- The state an instruction fetched in `u` is executed in: pc advanced, the first step noted (R40). -/
abbrev State.fetched (u : State) : State := u.markStarted.advancePc

/-- Everything the state after a step can be, `u` being the state with the host's list as the step leaves it. -/
inductive StepsTo (u : State) : State → Prop where
  | idle (dead : ¬ Running u) : StepsTo u u
  | dies (r : FaultRecord) (v : State) : StepsTo u (deadState r v)
  | executes {i : Instr} {t : State} (running : Running u) (fetch : u.pc.toNat + 1 < Config.memSize)
      (effect : Completes u.fetched i t) : StepsTo u t
  | resets : StepsTo u (resetMachine u)
  | loads (a : Nat) (bs : List Byte) (m : Memory) (write : writeBlockBytes u.mem a bs = .ok m)
      (running : Running u) : StepsTo u (u.setMem m)
  | ticks (running : Running u) : StepsTo u (tickTimers u)
  | keyDown (k : Key) (running : Running u) : StepsTo u (u.setKb (u.kb.keyDown k))
  | keyUp (running : Running u) : StepsTo u (u.setKb u.kb.keyUp)
  | clearSignals (running : Running u) : StepsTo u (u.setKb u.kb.clearSignals)
  | consumeDirty (running : Running u) : StepsTo u (consumeDirty u).2

/-- A fetch that completes lies in memory, both bytes of it (20_memory.md R53). -/
theorem fetchWord_ok_bound {s : State} {op : Word} (h : fetchWord s = .ok op) :
    s.pc.toNat + 1 < Config.memSize := by
  by_contra hpast
  rw [fetchWord_eq, if_neg hpast] at h
  cases h

theorem stepsTo_of_cpuStep {u t : State} (h : cpuStep u = .next t) : StepsTo u t := by
  obtain ⟨r, hr, ht⟩ | ⟨-, e, -, ht⟩ | ⟨-, op, e, -, -, ht⟩ | ⟨running, op, i, hfetch, -, hexec⟩ := cpuStep_cases h
  · cases ht; exact .idle (by simp [hr])
  · cases ht; exact .dies _ _
  · cases ht; exact .dies _ _
  · obtain effect | ⟨e, -, rfl⟩ := exec_next_cases hexec.symm
    · exact .executes running (fetchWord_ok_bound hfetch) effect
    · exact .dies _ _

theorem ifRunning_of_running {s : State} (op : State → Answer) (h : Running s) : ifRunning s op = op s :=
  if_neg (by rw [h]; exact Bool.noConfusion)

theorem ifRunning_of_dead {s : State} (op : State → Answer) (h : ¬ Running s) :
    ifRunning s op = .refused .hostOpAfterFault := if_pos (Option.isSome_iff_ne_none.mpr h)

/-- A host operation answers only in a running machine (60_exceptions.md R175). -/
theorem ifRunning_next {s t : State} {op : State → Answer} (h : ifRunning s op = .next t) :
    Running s ∧ op s = .next t := by
  by_cases running : Running s
  · exact ⟨running, ifRunning_of_running op running ▸ h⟩
  · rw [ifRunning_of_dead op running] at h
    cases h

/-- A load answers only before the first step (R197). -/
theorem atBoot_next {s t : State} {load : State → Answer} (h : atBoot s load = .next t) : load s = .next t := by
  rw [atBoot] at h
  split at h
  · cases h
  · exact h

theorem stepsTo_of_writeBlock {u t : State} {a : Nat} {bs : List Byte} (running : Running u)
    (h : writeBlock a bs u = .next t) : StepsTo u t := by
  cases hwrite : writeBlockBytes u.mem a bs with
  | ok m => cases (writeBlock_ok hwrite).symm.trans h; exact .loads a bs m hwrite running
  | error e => cases (writeBlock_error hwrite).symm.trans h; exact .dies _ _

theorem stepsTo_of_runHostOp {u t : State} {op : HostOp} (h : runHostOp cpuStep op u = .next t) :
    StepsTo u t := by
  cases op <;> rw [runHostOp] at h
  case step => exact stepsTo_of_cpuStep h
  case reset => cases h; exact .resets
  case loadFont =>
    obtain ⟨running, h⟩ := ifRunning_next h
    exact stepsTo_of_writeBlock running (atBoot_next h)
  case loadProgram bytes =>
    obtain ⟨running, h⟩ := ifRunning_next h
    exact stepsTo_of_writeBlock running (atBoot_next h)
  case tickTimers => obtain ⟨running, h⟩ := ifRunning_next h; cases h; exact .ticks running
  case keyDown k => obtain ⟨running, h⟩ := ifRunning_next h; cases h; exact .keyDown k running
  case keyUp => obtain ⟨running, h⟩ := ifRunning_next h; cases h; exact .keyUp running
  case clearSignals => obtain ⟨running, h⟩ := ifRunning_next h; cases h; exact .clearSignals running
  case consumeDirty => obtain ⟨running, h⟩ := ifRunning_next h; cases h; exact .consumeDirty running

/-- Everything a step can do, on the state without the host operation it performs (log 11). -/
theorem stepsTo_of_step {s t : State} (h : step s = .next t) : ∃ ops, StepsTo (s.setHostOps ops) t := by
  cases hops : s.hostOps with
  | nil => exact ⟨s.hostOps, stepsTo_of_cpuStep (step_of_nil hops ▸ h)⟩
  | cons op rest => exact ⟨rest, stepsTo_of_runHostOp (step_of_cons hops ▸ h)⟩

/-! ### Memory's canonical form -/

/-- Only the two stores touch memory, and a store keeps the form (R54). -/
theorem Completes.memCanonical {s t : State} {i : Instr} (h : Completes s i t) (hwf : MemCanonical s) :
    MemCanonical t := by
  cases h with
  | store kind bs m write => exact writeBytes_wf hwf write
  | call nnn u push => rw [push_frame push]; exact hwf
  | ret ra u pop => rw [pop_frame pop]; exact hwf
  | skip kind c => rw [MemCanonical, State.skipIf_mem]; exact hwf
  | _ => exact hwf

/-- Settles O39: a completed instruction by `Completes.memCanonical`, a load by `writeBlockBytes_wf`, a dead state by
`Memory.canonical`; reset's memory is empty and no other host operation touches memory. -/
theorem everyStepKeepsMemoryCanonical : Obligations.EveryStepKeepsMemoryCanonical := by
  intro s t hwf h
  obtain ⟨ops, outcome⟩ := stepsTo_of_step h
  cases outcome with
  | dies r v => exact deadState_mem_wf r v
  | executes running fetch effect => exact effect.memCanonical hwf
  | resets => exact State.reset_mem_wf
  | loads a bs m write running => exact writeBlockBytes_wf hwf write
  | _ => exact hwf

/-! ### The running machine's invariant -/

/-- The address just fetched from leaves pc, advanced, in the range of a pushed address (40_flow.md R100, R102). -/
theorem State.fetched_pc_range {u : State} (hfetch : u.pc.toNat + 1 < Config.memSize) :
    2 ≤ u.fetched.pc.toNat ∧ u.fetched.pc.toNat ≤ 0x1000 := by
  simp only [Config.memSize, State.advancePc_pc, State.markStarted_pc] at *
  bv_omega

theorem toNat_target_le (nnn : Addr) : (target nnn).toNat ≤ 0x1002 := by
  have := nnn.isLt
  rw [toNat_target]
  omega

/-- A skip from an advanced pc stays in R26's range. -/
theorem State.skipIf_pc_le {s : State} (c : Bool) (hpc : s.pc.toNat ≤ 0x1000) : (s.skipIf c).pc.toNat ≤ 0x1002 := by
  rw [State.skipIf_pc]
  cases c
  · exact hpc.trans (by decide)
  · simp only [↓reduceIte]
    bv_omega

/-- Completing keeps pc in its range, when the live stack cells hold pushed addresses (R26). -/
theorem Completes.pcInRange {s t : State} {i : Instr} (h : Completes s i t)
    (hpc : 2 ≤ s.pc.toNat ∧ s.pc.toNat ≤ 0x1000) (hstack : StackHoldsReturns s) : PcInRange t := by
  obtain ⟨hlow, hhigh⟩ := hpc
  have hkept : s.pc.toNat ≤ 0x1002 := by omega
  cases h with
  | jump nnn => exact toNat_target_le nnn
  | call nnn u push => exact toNat_target_le nnn
  | skip kind c => exact State.skipIf_pc_le c hhigh
  | rewind x => rw [PcInRange, State.rewind_pc]; bv_omega
  | ret ra u pop =>
    obtain ⟨-, hpop⟩ | ⟨hlt, _, hne, hpop⟩ := pop_cases pop
    · cases hpop
    · cases hpop
      exact (hstack _ hlt (by omega)).2.trans (by decide)
  | _ => exact hkept

/-- Completing keeps pushed addresses in the live stack cells: the pushed one is the advanced pc (R28, R102). -/
theorem Completes.stackHoldsReturns {s t : State} {i : Instr} (h : Completes s i t)
    (hpc : 2 ≤ s.pc.toNat ∧ s.pc.toNat ≤ 0x1000) (hstack : StackHoldsReturns s) : StackHoldsReturns t := by
  cases h with
  | call nnn u push =>
    obtain ⟨hlt, hpush⟩ | ⟨-, hpush⟩ := push_cases push
    · cases hpush
      intro j hj hlive
      simp only [State.setPc_stack, Vector.getElem_set]
      split
      · exact hpc
      · exact hstack j hj (by simp at hlive; omega)
    · cases hpush
  | ret ra u pop =>
    obtain ⟨-, hpop⟩ | ⟨_, _, -, hpop⟩ := pop_cases pop
    · cases hpop
    · cases hpop
      intro j hj hlive
      exact hstack j hj (by simp at hlive; omega)
  | skip kind c => cases c <;> exact hstack
  | _ => exact hstack

/-- No instruction changes the keyboard (44_keys_timers.md). -/
theorem Completes.kb {s t : State} {i : Instr} (h : Completes s i t) : t.kb = s.kb := by
  cases h with
  | call nnn u push => rw [push_frame push]; rfl
  | ret ra u pop => rw [pop_frame pop]; rfl
  | skip kind c => exact State.skipIf_kb s c
  | _ => rfl

theorem runningInv_reset : RunningInv State.reset := fun _ =>
  ⟨fun h => Bool.noConfusion h, by decide, fun j _ hj => absurd hj (Nat.not_lt_zero j)⟩

theorem not_running_deadState (r : FaultRecord) (s : State) : ¬ Running (deadState r s) := Option.some_ne_none r

/-- `key_up` signals only with the key it records as released (R193). -/
theorem Keyboard.keyUp_signal_has_last {kb : Keyboard} (h : kb.signal = true → kb.last.isSome = true) :
    kb.keyUp.signal = true → kb.keyUp.last.isSome = true := by
  unfold Keyboard.keyUp
  split
  · exact fun _ => rfl
  · exact h

/-- Settles O43: an instruction by the three laws of `Completes` from the advanced pc; the host's operations keep pc
and the stack, and only `key_up` sets the signal. -/
theorem everyStepKeepsRunningInvariant : Obligations.EveryStepKeepsRunningInvariant := by
  intro s t hinv h
  obtain ⟨ops, outcome⟩ := stepsTo_of_step h
  have hinv : RunningInv (s.setHostOps ops) := hinv
  cases outcome with
  | idle => exact hinv
  | dies r v => exact fun running => absurd running (not_running_deadState r v)
  | resets => exact runningInv_reset
  | executes running fetch effect =>
    obtain ⟨hkey, -, hstack⟩ := hinv running
    have hpc := State.fetched_pc_range fetch
    refine fun _ => ⟨?_, effect.pcInRange hpc hstack, effect.stackHoldsReturns hpc hstack⟩
    rw [KeySignalHasKey, effect.kb]
    exact hkey
  | loads | ticks | consumeDirty => exact hinv
  | keyDown => exact hinv
  | keyUp running =>
    obtain ⟨hkey, hrest⟩ := hinv running
    exact fun _ => ⟨Keyboard.keyUp_signal_has_last hkey, hrest⟩
  | clearSignals running =>
    obtain ⟨-, hrest⟩ := hinv running
    exact fun _ => ⟨fun h => Bool.noConfusion h, hrest⟩

/-- Settles O44: every clause is about the one reset state. -/
theorem resetMeetsInvariants : Obligations.ResetMeetsInvariants := ⟨runningInv_reset, State.reset_mem_wf, rfl⟩

end Sys2Proof.Machine
end

section
/-!
The statements about the step itself: the CPU's step by its four branches (10_state.md section 10), the dead machine
(60_exceptions.md section 1), the waiting step of FX0A, and the model's list of host operations (log 11).
-/

namespace Sys2Proof.Machine

/-! ### The CPU's step, branch by branch -/

theorem cpuStep_of_dead {s : State} (h : ¬ Running s) : cpuStep s = .next s := by
  obtain ⟨r, hr⟩ := Option.ne_none_iff_exists'.mp h
  rw [cpuStep, hr]

/-- Inside memory the fetch is the opcode at pc (R40, R53). -/
theorem fetchWord_of_bound {s : State} (h : s.pc.toNat + 1 < Config.memSize) : fetchWord s = .ok (opcodeAtPc s) := by
  rw [fetchWord_eq, if_pos h]; rfl

theorem fetchWord_of_past {s : State} (h : Config.memSize ≤ s.pc.toNat + 1) :
    fetchWord s = .error (.outOfBounds (max s.pc.toNat Config.memSize)) := by
  rw [fetchWord_eq, if_neg (Nat.not_lt.mpr h)]

theorem cpuStep_of_decode {s : State} {i : Instr} (running : Running s) (hpc : s.pc.toNat + 1 < Config.memSize)
    (hdecode : decodeWord (opcodeAtPc s) = .ok i) : cpuStep s = exec i s.fetched := by
  have hfetch : fetchWord s.markStarted = .ok (opcodeAtPc s) := fetchWord_of_bound hpc
  rw [cpuStep, running, hfetch]
  simp only [hdecode]

theorem cpuStep_of_unknown {s : State} (running : Running s) (hpc : s.pc.toNat + 1 < Config.memSize)
    (hdecode : decodeWord (opcodeAtPc s) = .error (.unknownOpcode (opcodeAtPc s))) :
    cpuStep s = takeFatal .unknownOpcode (some s.pc) (some (opcodeAtPc s)) s.markStarted := by
  have hfetch : fetchWord s.markStarted = .ok (opcodeAtPc s) := fetchWord_of_bound hpc
  rw [cpuStep, running, hfetch]
  simp only [hdecode]

theorem cpuStep_of_past {s : State} (running : Running s) (hpc : Config.memSize ≤ s.pc.toNat + 1) :
    cpuStep s = takeFatal (.outOfBounds (max s.pc.toNat Config.memSize)) (some s.pc) none s.markStarted := by
  have hfetch : fetchWord s.markStarted = .error (.outOfBounds (max s.pc.toNat Config.memSize)) :=
    fetchWord_of_past hpc
  rw [cpuStep, running, hfetch]

/-- Taking a fatal error leaves its record (R174). -/
theorem faultsWith_takeFatal (e : FatalError) (ia op : Option Word) (s : State) :
    FaultsWith (takeFatal e ia op s) (e.record ia op) := ⟨_, rfl, rfl⟩

/-- Settles O5: the four branches of the CPU's step, the decoder's only error being the unknown word. -/
theorem stepRunsDecodedInstruction : Obligations.StepRunsDecodedInstruction := by
  intro s hnil
  rw [step_of_nil hnil]
  refine ⟨fun running hpc i hdecode => cpuStep_of_decode running hpc hdecode, fun running hpc hnone => ?_,
    fun running hpc => ?_, cpuStep_of_dead⟩
  · have hunknown := (decodeWord_ok_or_unknown (opcodeAtPc s)).resolve_left fun ⟨i, hi⟩ => hnone i hi
    rw [cpuStep_of_unknown running hpc hunknown]
    exact faultsWith_takeFatal _ _ _ _
  · rw [cpuStep_of_past running hpc]
    exact faultsWith_takeFatal _ _ _ _

/-- Settles O6: every branch of the step answers a next state but the refused FX0A, whose state the premise rules out
(44_keys_timers.md R162 (f)). -/
theorem everyCpuStepAnswersNextState : Obligations.EveryCpuStepAnswersNextState := by
  intro s hnil hkey
  rw [step_of_nil hnil]
  obtain ⟨r, -, h⟩ | ⟨-, e, -, h⟩ | ⟨-, op, e, -, -, h⟩ | ⟨running, op, i, -, -, h⟩ := cpuStep_cases (s := s) rfl
  · exact ⟨_, h⟩
  · exact ⟨_, h⟩
  · exact ⟨_, h⟩
  · rw [h]
    have outcome := exec_outcome i s.fetched
    generalize exec i s.fetched = answer at outcome ⊢
    cases outcome with
    | completes => exact ⟨_, rfl⟩
    | raises => exact ⟨_, rfl⟩
    | refused signal last =>
      have hlast := hkey running signal
      rw [show s.kb.last = none from last] at hlast
      cases hlast

/-! ### The waiting step -/

/-- The rewind undoes the fetch's advance, in a run whose first step is past (44_keys_timers.md R162). -/
theorem State.rewind_fetched {s : State} (h : s.started = true) : s.fetched.rewind = s := by
  have hpc : s.fetched.rewind.pc = s.pc := BitVec.add_sub_cancel s.pc 2
  calc s.fetched.rewind = { s with pc := s.fetched.rewind.pc, started := true } := rfl
    _ = s := by rw [hpc, ← h]

/-- Settles O7: the word is FX0A's, and its rewind takes back the advance. -/
theorem waitingStepLeavesStateAsItWas : Obligations.WaitingStepLeavesStateAsItWas := by
  intro s x hnil running hstarted hpc hop hsignal
  have hdecode : decodeWord (opcodeAtPc s) = .ok (.ldVxK x) := hop ▸ decodeWord_encode (.ldVxK x)
  rw [step_of_nil hnil, cpuStep_of_decode running hpc hdecode, exec_ldVxK_of_no_signal (s := s.fetched) x hsignal,
    State.rewind_fetched hstarted]

/-! ### The host's list -/

/-- A host operation is performed on the state without it. -/
theorem step_hostOp (s : State) (op : HostOp) (rest : List HostOp) :
    step { s with hostOps := op :: rest } = runHostOp cpuStep op { s with hostOps := rest } := rfl

/-- Settles O42: the CPU's step by `cpuStep_of_dead`; `ifRunning` guards every operation but `step` and `reset`. -/
theorem deadMachineWaitsForReset : Obligations.DeadMachineWaitsForReset := by
  intro s op rest dead
  refine ⟨cpuStep_of_dead dead, cpuStep_of_dead dead, rfl, fun hstep hreset => ?_⟩
  rw [step_hostOp]
  cases op with
  | step => exact absurd rfl hstep
  | reset => exact absurd rfl hreset
  | _ => rw [runHostOp]; exact ifRunning_of_dead _ dead

theorem atBoot_of_not_started {s : State} (load : State → Answer) (h : s.started = false) :
    atBoot s load = load s := if_neg (by rw [h]; exact Bool.noConfusion)

theorem atBoot_of_started {s : State} (load : State → Answer) (h : s.started = true) :
    atBoot s load = .refused .loadAfterFirstStep := if_pos h

/-- Settles O55: `step_hostOp` with the guard `ifRunning` met, and a load's guard `atBoot` by `started`. -/
theorem hostOperationsRunInListOrder : Obligations.HostOperationsRunInListOrder := by
  intro s rest k bytes u running hu
  have hrun : Running u := by rw [hu]; exact running
  simp only [step_hostOp, ← hu, runHostOp, ifRunning_of_running _ hrun]
  have hstarted : u.started = s.started := by rw [hu]
  refine ⟨trivial, by rw [hu]; rfl, trivial, rfl, rfl, rfl, trivial, fun h => ?_, fun h => ?_⟩
  · exact ⟨atBoot_of_not_started _ (hstarted.trans h), atBoot_of_not_started _ (hstarted.trans h)⟩
  · exact ⟨atBoot_of_started _ (hstarted.trans h), atBoot_of_started _ (hstarted.trans h)⟩

/-! ### A word placed where the next step fetches (log 15) -/

theorem decodeWord_of_decodeTableWord {nbits w : Nat} {i : Instr} (h : decodeTableWord nbits w = some i) :
    decodeWord (tableWord nbits w) = .ok i := by
  obtain ⟨j, hj⟩ | herr := decodeWord_ok_or_unknown (tableWord nbits w)
  · have hdecode := decode_bytesOfWord [] hj
    rw [List.append_nil] at hdecode
    simp only [decodeTableWord, hdecode, Option.some.injEq] at h
    rw [hj, h]
  · simp [decodeTableWord, decode, bytesOfWord, wordOfBytes_bytesOfWord, herr] at h

/-- A word can be fetched where `withFetchWord` puts it. -/
theorem fetchSite_bound (pc : Word) : (fetchSite pc).toNat + 1 < Config.memSize := by
  unfold fetchSite
  split
  · assumption
  · decide

/-- The opcode at pc is the word placed there. -/
theorem opcodeAtPc_withFetchWord {s : State} (nbits w : Nat) (hwf : MemCanonical s) :
    opcodeAtPc (s.withFetchWord nbits w) = tableWord nbits w := by
  have hbound := fetchSite_bound s.pc
  simp only [opcodeAtPc, State.withFetchWord]
  rw [Memory.read_write_ne _ _ (Nat.succ_ne_self _), Memory.read_write_self _ _ hwf,
    Memory.read_write_self _ _ (Memory.write_wf _ hwf (Nat.lt_of_succ_lt hbound))]
  exact wordOfBytes_bytesOfWord _

/-- Settles O57: the step fetches the word placed, which decodes to the instruction; the two writes touch two cells. -/
theorem placedWordRunsNext : Obligations.PlacedWordRunsNext := by
  intro s w i hwf htable
  have hdecode : decodeWord (opcodeAtPc (s.withFetchWord 16 w)) = .ok i :=
    opcodeAtPc_withFetchWord 16 w hwf ▸ decodeWord_of_decodeTableWord htable
  refine ⟨(s.withFetchWord 16 w).fetched, ?_, rfl, fun hpc => ?_⟩
  · exact (step_of_nil rfl).trans (cpuStep_of_decode rfl (fetchSite_bound s.pc) hdecode)
  · have hsite : fetchSite s.pc = s.pc := if_pos hpc
    refine ⟨congrArg (· + 2) hsite, fun c hlow hhigh => ?_⟩
    simp only [State.advancePc_mem, State.markStarted_mem, State.withFetchWord, hsite]
    rw [Memory.read_write_ne _ _ hhigh.symm, Memory.read_write_ne _ _ hlow.symm]

end Sys2Proof.Machine
end

section
/-!
The remaining statements of 41_alu.md: the logic instructions (R115 to R117), the flagged ones (R118 to R123) and the
random draw (R124).
-/

namespace Sys2Proof.Machine

/-! ### One register write -/

/-- An instruction that answers one register write changes that register alone. -/
theorem exec_of_writeV {i : Instr} {s : State} {x : Reg} {b : Byte} (h : exec i s = .next (s.writeV x b)) :
    ∃ t, exec i s = .next t ∧ t.readV x = b ∧ RegsBecome s t fun r => if r = x then t.readV x else s.readV r :=
  ⟨_, h, State.readV_writeV_self s x b, regsBecome_writeV_readV s x b⟩

theorem exec_orReg (x y : Reg) (s : State) :
    exec (.orReg x y) s = .next (s.writeV x (s.readV x ||| s.readV y)) := rfl

theorem exec_andReg (x y : Reg) (s : State) :
    exec (.andReg x y) s = .next (s.writeV x (s.readV x &&& s.readV y)) := rfl

theorem exec_xorReg (x y : Reg) (s : State) :
    exec (.xorReg x y) s = .next (s.writeV x (s.readV x ^^^ s.readV y)) := rfl

/-- Settles O11: each is one register write of the operation on bit vectors, which is bit by bit (R115 to R117). -/
theorem logicIsBitwiseAndLeavesFlag : Obligations.LogicIsBitwiseAndLeavesFlag := by
  intro x y s
  refine ⟨?_, ?_, ?_⟩
  · obtain ⟨t, h, hx, hregs⟩ := exec_of_writeV (exec_orReg x y s)
    exact ⟨t, h, fun i => hx ▸ BitVec.getLsbD_or, hregs⟩
  · obtain ⟨t, h, hx, hregs⟩ := exec_of_writeV (exec_andReg x y s)
    exact ⟨t, h, fun i => hx ▸ BitVec.getLsbD_and, hregs⟩
  · obtain ⟨t, h, hx, hregs⟩ := exec_of_writeV (exec_xorReg x y s)
    exact ⟨t, h, fun i => hx ▸ BitVec.getLsbD_xor, hregs⟩

/-! ### A result and a flag -/

theorem flagByte_decide (c : Prop) [Decidable c] : flagByte (decide c) = if c then 0x01 else 0x00 := by
  simp only [flagByte, decide_eq_true_eq]

/-- An instruction that answers a result and a flag leaves the result in `V[x]` and the flag in VF, the flag alone when
x = 0xF, and nothing else changed (R111). -/
theorem exec_of_writeResultFlag {i : Instr} {s : State} {x : Reg} {r : Byte × Bool}
    (h : exec i s = .next (s.writeResultFlag x r)) (c : Prop) [Decidable c] (hflag : r.2 = decide c) :
    ∃ t, exec i s = .next t ∧ (x ≠ 0xF → t.readV x = r.1) ∧
      RegsBecome s t fun q =>
        if q = 0xF then (if c then 0x01 else 0x00) else if q = x then t.readV x else s.readV q := by
  have hread (q : Reg) : (s.writeResultFlag x r).readV q =
      if q = 0xF then (if c then 0x01 else 0x00) else if q = x then r.1 else s.readV q := by
    rw [State.readV_writeResultFlag, hflag, flagByte_decide]
    simp only [eq_comm]; rfl
  refine ⟨_, h, fun hx => by rw [hread, if_neg hx, if_pos rfl], rfl, fun q => ?_⟩
  simp only [hread]
  by_cases hVF : q = 0xF
  · simp only [if_pos hVF]
  · by_cases hx : q = x
    · simp only [if_neg hVF, if_pos hx, if_neg (hx ▸ hVF), if_true]
    · simp only [if_neg hVF, if_neg hx]

theorem exec_addReg (x y : Reg) (s : State) :
    exec (.addReg x y) s = .next (s.writeResultFlag x (addCarry (s.readV x) (s.readV y))) := rfl

theorem exec_subReg (x y : Reg) (s : State) :
    exec (.subReg x y) s = .next (s.writeResultFlag x (subNotBorrow (s.readV x) (s.readV y))) := rfl

theorem exec_subn (x y : Reg) (s : State) :
    exec (.subn x y) s = .next (s.writeResultFlag x (subNotBorrow (s.readV y) (s.readV x))) := rfl

theorem exec_shr (x y : Reg) (s : State) :
    exec (.shr x y) s = .next (s.writeResultFlag x (shiftRightLost (shiftOperand shiftSrc x y s))) := rfl

theorem exec_shl (x y : Reg) (s : State) :
    exec (.shl x y) s = .next (s.writeResultFlag x (shiftLeftLost (shiftOperand shiftSrc x y s))) := rfl

theorem toNat_subNotBorrow (a b : Byte) : (subNotBorrow a b).1.toNat = (a.toNat + 256 - b.toNat) % 256 := by
  have := a.isLt
  have := b.isLt
  rw [subNotBorrow, BitVec.toNat_ofInt]
  omega

theorem toNat_shiftRightLost (a : Byte) : (shiftRightLost a).1.toNat = a.toNat / 2 := by
  have := a.isLt
  rw [shiftRightLost, BitVec.toNat_ofNat, Nat.mod_eq_of_lt (by omega)]

/-- The bit a right shift loses is the parity (R120). -/
theorem shiftRightLost_lost (a : Byte) : (shiftRightLost a).2 = decide (a.toNat % 2 = 1) := by
  rw [shiftRightLost, BitVec.getLsbD, Nat.testBit_zero]

/-- The bit a left shift loses tells the values of 128 and more (R122). -/
theorem shiftLeftLost_lost (a : Byte) : (shiftLeftLost a).2 = decide (128 ≤ a.toNat) := by
  rw [shiftLeftLost, BitVec.getLsbD, Nat.testBit_eq_decide_div_mod_eq]
  have := a.isLt
  exact decide_eq_decide.mpr (by omega)

/-- Settles O12: the flag is the exact sum's comparison with 255 (R118). -/
theorem addSetsCarry : Obligations.AddSetsCarry := by
  intro x y s
  obtain ⟨t, h, hresult, hregs⟩ := exec_of_writeResultFlag (exec_addReg x y s)
    (255 < (s.readV x).toNat + (s.readV y).toNat) rfl
  exact ⟨t, h, fun hx => by rw [hresult hx, addCarry, BitVec.toNat_ofNat], hregs⟩

/-- Settles O13: both orders are `subNotBorrow`, whose flag is the comparison of its operands (R119, R121). -/
theorem subtractSetsNotBorrow : Obligations.SubtractSetsNotBorrow := by
  intro x y s
  constructor
  · obtain ⟨t, h, hresult, hregs⟩ := exec_of_writeResultFlag (exec_subReg x y s)
      ((s.readV y).toNat ≤ (s.readV x).toNat) rfl
    exact ⟨t, h, fun hx => by rw [hresult hx, toNat_subNotBorrow], hregs⟩
  · obtain ⟨t, h, hresult, hregs⟩ := exec_of_writeResultFlag (exec_subn x y s)
      ((s.readV x).toNat ≤ (s.readV y).toNat) rfl
    exact ⟨t, h, fun hx => by rw [hresult hx, toNat_subNotBorrow], hregs⟩

/-- The shift source by the parameter (R123). -/
theorem shiftOperand_eq (src : Config.ShiftSrc) (x y : Reg) (s : State) :
    shiftOperand src x y s = if src = .x then s.readV x else s.readV y := by
  cases src <;> rfl

/-- Settles O14: the source is `shiftOperand_eq`, and the lost bit is the parity or the comparison with 128 (R120,
R122, R123). -/
theorem shiftsMoveOneBitAndKeepLostBit : Obligations.ShiftsMoveOneBitAndKeepLostBit := by
  intro x y s src hsrc
  rw [← shiftOperand_eq] at hsrc
  constructor
  · obtain ⟨t, h, hresult, hregs⟩ := exec_of_writeResultFlag (exec_shr x y s) (src.toNat % 2 = 1)
      (hsrc ▸ shiftRightLost_lost _)
    exact ⟨t, h, fun hx => by rw [hresult hx, toNat_shiftRightLost, hsrc], hregs⟩
  · obtain ⟨t, h, hresult, hregs⟩ := exec_of_writeResultFlag (exec_shl x y s) (128 ≤ src.toNat)
      (hsrc ▸ shiftLeftLost_lost _)
    exact ⟨t, h, fun hx => by rw [hresult hx, shiftLeftLost, BitVec.toNat_ofNat, hsrc], hregs⟩

/-! ### The random draw -/

theorem exec_rnd (x : Reg) (kk : Byte) (s : State) :
    exec (.rnd x kk) s = .next (s.countFree.writeV x (Config.rand8 s.free &&& kk)) := rfl

/-- Settles O15: one register write of the masked draw, on the state with one more draw counted (R124). -/
theorem randomIsMaskedDraw : Obligations.RandomIsMaskedDraw := by
  intro x kk s
  have hx := State.readV_writeV_self s.countFree x (Config.rand8 s.free &&& kk)
  refine ⟨_, exec_rnd x kk s, rfl, fun i => ?_, fun hzero => ?_, fun r hr => ?_⟩
  · rw [hx, BitVec.getLsbD_and]
  · rw [hx, hzero]; exact BitVec.and_zero
  · rw [State.readV_writeV, if_neg (Ne.symm hr), State.readV_countFree]

end Sys2Proof.Machine
end

section
/-!
The remaining statements of 40_flow.md: call and return (R100, R102), and the register skips (R105, R106).
-/

namespace Sys2Proof.Machine

/-! ### Call and return -/

/-- The state a push leaves below sixteen addresses: the address at the old top, sp one more (R102). -/
def State.pushed (s : State) (ra : Word) (h : s.sp.val < 16) : State :=
  { s with stack := s.stack.set s.sp.val ra h, sp := ⟨s.sp.val + 1, Nat.succ_lt_succ h⟩ }

theorem exec_call_ok (nnn : Addr) {s : State} (h : s.sp.val < 16) :
    exec (.call nnn) s = .next ((s.pushed s.pc h).setPc (target nnn)) := by
  rw [exec_call, push_ok s.pc h]; rfl

/-- The pushed cell holds the address, every other cell what it held (R28). -/
theorem State.getElem_pushed (s : State) (ra : Word) (h : s.sp.val < 16) (j : Nat) (hj : j < 16) :
    (s.pushed ra h).stack[j] = if j = s.sp.val then ra else s.stack[j] := by
  simp only [State.pushed, Vector.getElem_set, eq_comm]

/-- A return with `n + 1` addresses held pops cell `n` into pc (R100). -/
theorem exec_ret_ok {s : State} {n : Nat} (hn : n < 16) (h : s.sp.val = n + 1) :
    exec .ret s = .next { s with pc := s.stack[n], sp := ⟨n, Nat.lt_succ_of_lt hn⟩ } := by
  have hpop : s.pop = .ok (s.stack[n], { s with sp := ⟨n, Nat.lt_succ_of_lt hn⟩ }) := by
    simp only [State.pop, h, Nat.add_one_ne_zero, ↓reduceIte, Nat.add_one_sub_one]
  rw [exec_ret, hpop]; rfl

/-- Settles O17: the answer is the pushed state with pc at the target (R102). -/
theorem callPushesReturnAddress : Obligations.CallPushesReturnAddress := fun nnn s h =>
  ⟨_, exec_call_ok nnn h, toNat_target nnn, rfl, s.getElem_pushed s.pc h, rfl⟩

/-- Settles O18: the answer is `exec_ret_ok` with the cell below sp (R100). -/
theorem returnPopsIntoPc : Obligations.ReturnPopsIntoPc := by
  intro s hne
  obtain ⟨n, hn⟩ := Nat.exists_eq_succ_of_ne_zero hne
  have hlt : n < 16 := by omega
  exact ⟨_, exec_ret_ok hlt hn, hn.symm, fun _ => rfl, rfl⟩

/-- Settles O19: the return pops the cell the call pushed, and the cells below it are as before. -/
theorem returnUndoesCall : Obligations.ReturnUndoesCall := by
  intro nnn s pc' h
  refine ⟨_, _, exec_call_ok nnn h, exec_ret_ok h rfl, ?_, rfl, fun j hj hlive => ?_⟩
  · exact (s.getElem_pushed s.pc h _ h).trans (if_pos rfl)
  · exact (s.getElem_pushed s.pc h j hj).trans (if_neg hlive.ne)

/-! ### The register skips -/

theorem exec_seReg (x y : Reg) (s : State) :
    exec (.seReg x y) s = .next (s.skipIf (s.readV x == s.readV y)) := rfl

theorem exec_sneReg (x y : Reg) (s : State) :
    exec (.sneReg x y) s = .next (s.skipIf (s.readV x != s.readV y)) := rfl

/-- Settles O21: the two words decode whatever their low nibble, and both instructions are `exec_of_skipIf` (R81, R105,
R106). -/
theorem registerSkipsIgnoreLowNibble : Obligations.RegisterSkipsIgnoreLowNibble := by
  intro x y u s
  refine ⟨decodeWord_seReg x y u, decodeWord_sneReg x y u, ?_, ?_⟩
  · simpa only [beq_iff_eq, BitVec.toNat_inj] using exec_of_skipIf (exec_seReg x y s)
  · simpa only [bne_iff_ne, ite_not, ne_eq, BitVec.toNat_inj] using exec_of_skipIf (exec_sneReg x y s)

end Sys2Proof.Machine
end

section
/-!
The remaining statements of 42_index_memory.md: the index add (R131), the glyph address (R132), and the round trip of
a register range through memory (R134, R135).
-/

namespace Sys2Proof.Machine

theorem exec_addI (x : Reg) (s : State) :
    exec (.addI x) s = .next ((s.setI (addIndex s.I (s.readV x)).1).writeV VF
      (indexFlag addiFlagMode (addIndex s.I (s.readV x)).2 (s.readV VF))) := rfl

/-- Settles O23: the answer is one write of I and one of VF, by mode what `indexFlag` says (R131). -/
theorem addIndexFollowsFlagMode : Obligations.AddIndexFollowsFlagMode := by
  intro x s sum hsum
  have hexceeds : (addIndex s.I (s.readV x)).2 = decide (0x0FFF < sum) := by rw [hsum]; rfl
  have hVF : ((s.setI (addIndex s.I (s.readV x)).1).writeV VF
      (indexFlag addiFlagMode (addIndex s.I (s.readV x)).2 (s.readV VF))).readV 0xF =
      indexFlag addiFlagMode (decide (0x0FFF < sum)) (s.readV 0xF) :=
    hexceeds ▸ State.readV_writeV_self _ VF _
  refine ⟨_, exec_addI x s, rfl, ?_, fun r hr => ?_, fun hmode => ?_, fun hmode => ?_, fun hmode => ?_⟩
  · rw [State.writeV_I, State.setI_I, addIndex, BitVec.toNat_ofNat, hsum]
  · exact (State.readV_writeV _ VF r _).trans (if_neg (Ne.symm hr))
  · rw [hVF, hmode, indexFlag]
  · rw [hVF, hmode, indexFlag]
    simp only [decide_eq_true_eq]
  · rw [hVF, hmode, indexFlag, flagByte_decide]

theorem exec_ldF (x : Reg) (s : State) : exec (.ldF x) s = .next (s.setI (glyphAddr (s.readV x))) := rfl

/-- The glyph address of an 8-bit value fits 16 bits, so nothing is reduced (R132). -/
theorem toNat_glyphAddr (b : Byte) : (glyphAddr b).toNat = 0x50 + 5 * b.toNat := by
  have := b.isLt
  rw [glyphAddr, BitVec.toNat_ofNat, Nat.mod_eq_of_lt (by simp; omega)]

/-- Settles O24: the answer is `s.setI (glyphAddr V[x])` (R132). -/
theorem fontAddressIsBasePlusFiveTimes : Obligations.FontAddressIsBasePlusFiveTimes := fun x s =>
  ⟨_, exec_ldF x s, toNat_glyphAddr (s.readV x), rfl⟩

/-- Settles O28: the load reads the cells the store wrote, `storeRegistersWritesRange` and `loadRegistersReadsRange`
together. -/
theorem loadAfterStoreRestoresRegisters : Obligations.LoadAfterStoreRestoresRegisters := by
  intro x s t u w hwf hin hstore hload r hr
  obtain ⟨-, hstored, -⟩ := storeRegistersWritesRange x s hwf
  obtain ⟨t', ht', ⟨hframe, -⟩, hcells⟩ := hstored hin
  cases hstore.symm.trans ht'
  have hI : (t.setV w).I = s.I := by rw [hframe]; rfl
  obtain ⟨-, hloaded, -⟩ := loadRegistersReadsRange x (t.setV w)
  obtain ⟨u', hu', -, hregs⟩ := hloaded (hI ▸ hin)
  cases hload.symm.trans hu'
  exact (hregs r).trans ((if_pos hr).trans (by rw [hI, State.setV_mem, hcells r hr]))

end Sys2Proof.Machine
end

section
/-!
The remaining statements of 44_keys_timers.md: the key skips (R160, R161), the wait for a key (R162), the sound timer
(R165).
-/

namespace Sys2Proof.Machine

theorem exec_skp (x : Reg) (s : State) : exec (.skp x) s = .next (s.skipIf (isKeyPressed s.kb (s.readV x))) := rfl

theorem exec_sknp (x : Reg) (s : State) : exec (.sknp x) s = .next (s.skipIf (!isKeyPressed s.kb (s.readV x))) := rfl

theorem toNat_keyByte (k : Key) : (keyByte k).toNat = k.toNat := BitVec.toNat_setWidth_of_le (by decide)

/-- All 8 bits of the value are compared with the key that is down (R160, D17). -/
theorem isKeyPressed_iff (kb : Keyboard) (b : Byte) :
    isKeyPressed kb b = true ↔ ∃ k, kb.down = some k ∧ k.toNat = b.toNat := by
  unfold isKeyPressed
  cases kb.down with
  | none => simp
  | some k =>
    simp only [decide_eq_true_eq, Option.some.injEq, exists_eq_left', ← toNat_keyByte k, BitVec.toNat_inj]

/-- Settles O33: both skips are `exec_of_skipIf` on the comparison of `isKeyPressed_iff` (R160, R161). -/
theorem keySkipsTestKeyDown : Obligations.KeySkipsTestKeyDown := by
  intro x s pressed hpressed
  rw [← isKeyPressed_iff] at hpressed
  constructor
  · obtain ⟨t, h, hframe, hpc⟩ := exec_of_skipIf (exec_skp x s)
    exact ⟨t, h, hframe, fun hp => by rw [hpc, if_pos (hpressed.mp hp)],
      fun hp => by rw [hpc, if_neg (mt hpressed.mpr hp)]⟩
  · obtain ⟨t, h, hframe, hpc⟩ := exec_of_skipIf (exec_sknp x s)
    exact ⟨t, h, hframe, fun hp => by rw [hpc, hpressed.mp hp]; rfl,
      fun hp => by rw [hpc, Bool.eq_false_iff.mpr (mt hpressed.mpr hp)]; rfl⟩

/-- Settles O34: the three cases of signal and last key; the released key is one register write (R162). -/
theorem keyWaitTakesReleaseOrRewinds : Obligations.KeyWaitTakesReleaseOrRewinds := by
  intro x s
  refine ⟨fun k hsignal hlast => ?_, exec_ldVxK_of_no_signal x, exec_ldVxK_of_signal_without_key x⟩
  obtain ⟨t, h, hx, hregs⟩ := exec_of_writeV (exec_ldVxK_of_release x hsignal hlast)
  exact ⟨t, h, hx ▸ toNat_keyByte k, hregs⟩

theorem exec_ldStVx (x : Reg) (s : State) : exec (.ldStVx x) s = .next (s.setSt (s.readV x)) := rfl

/-- The sound output is on exactly when ST is not 0 (10_state.md R30, D23). -/
theorem soundActive_iff (s : State) : soundActive s = true ↔ s.st.toNat ≠ 0 := by
  rw [soundActive, bne_iff_ne, ne_eq, ← BitVec.toNat_inj]; rfl

/-- Settles O36: the answer is one write of ST, and `soundActive_iff` reads it (R165). -/
theorem soundTimerWriteDrivesOutput : Obligations.SoundTimerWriteDrivesOutput := fun x s =>
  ⟨_, exec_ldStVx x s, rfl, rfl, soundActive_iff _⟩

end Sys2Proof.Machine
end

section
/-!
The drawing statements of 43_display.md section 2: every step of a draw, one bit, one row, the whole sprite, XORs a set
of cells into the grid and adds a collision exactly when one of them was on (R144 to R149).
-/

namespace Sys2Proof.Machine

/-! ### XORing a set of cells -/

/-- From `d` to `d'` exactly the cells of `lit` on the screen are inverted, `collision` is added exactly when one of
them was on, and `dirty` is kept. -/
structure Display.Xored (lit : Nat → Nat → Bool) (d d' : Display) : Prop where
  px : ∀ c r, c < 64 → r < 32 → getPx d'.px c r = (getPx d.px c r ^^ lit c r)
  collision : d'.collision = true ↔
    d.collision = true ∨ ∃ c r, c < 64 ∧ r < 32 ∧ lit c r = true ∧ getPx d.px c r = true
  dirty : d'.dirty = d.dirty

namespace Display

/-- Doing nothing XORs a set with no cell on the screen. -/
theorem Xored.refl {lit : Nat → Nat → Bool} (d : Display) (h : ∀ c r, c < 64 → r < 32 → lit c r = false) :
    Xored lit d d where
  px c r hc hr := by rw [h c r hc hr, Bool.xor_false]
  collision := by
    refine ⟨.inl, Or.rec id ?_⟩
    rintro ⟨c, r, hc, hr, hlit, -⟩
    rw [h c r hc hr] at hlit
    cases hlit
  dirty := rfl

/-- XORing two disjoint sets one after the other XORs their union: no cell of the second was touched by the first. -/
theorem Xored.trans {lit lit₁ lit₂ : Nat → Nat → Bool} {d e f : Display} (h₁ : Xored lit₁ d e) (h₂ : Xored lit₂ e f)
    (hdisjoint : ∀ c r, lit₁ c r = true → lit₂ c r = false)
    (hunion : ∀ c r, c < 64 → r < 32 → lit c r = (lit₁ c r || lit₂ c r)) : Xored lit d f where
  px c r hc hr := by
    rw [h₂.px c r hc hr, h₁.px c r hc hr, hunion c r hc hr]
    cases hlit : lit₁ c r
    · simp
    · simp [hdisjoint c r hlit]
  collision := by
    have hkept : ∀ c r, c < 64 → r < 32 → lit₂ c r = true → getPx e.px c r = getPx d.px c r := by
      intro c r hc hr hlit
      have hfirst : lit₁ c r = false := by
        by_contra hne
        rw [hdisjoint c r (Bool.not_eq_false _ ▸ hne)] at hlit
        cases hlit
      rw [h₁.px c r hc hr, hfirst, Bool.xor_false]
    rw [h₂.collision, h₁.collision]
    constructor
    · rintro ((hd | ⟨c, r, hc, hr, hlit, hon⟩) | ⟨c, r, hc, hr, hlit, hon⟩)
      · exact .inl hd
      · exact .inr ⟨c, r, hc, hr, by rw [hunion c r hc hr, hlit, Bool.true_or], hon⟩
      · exact .inr ⟨c, r, hc, hr, by rw [hunion c r hc hr, hlit, Bool.or_true], hkept c r hc hr hlit ▸ hon⟩
    · rintro (hd | ⟨c, r, hc, hr, hlit, hon⟩)
      · exact .inl (.inl hd)
      · rw [hunion c r hc hr, Bool.or_eq_true] at hlit
        obtain hlit | hlit := hlit
        · exact .inl (.inr ⟨c, r, hc, hr, hlit, hon⟩)
        · exact .inr ⟨c, r, hc, hr, hlit, (hkept c r hc hr hlit).symm ▸ hon⟩
  dirty := h₂.dirty.trans h₁.dirty

/-! ### One row -/

/-- The cells of the first `n` bits of a sprite row at `(x0, y0)` that are 1, bit 7 leftmost (R145, D13). -/
def rowLit (x0 y0 : Nat) (b : Byte) (n c r : Nat) : Bool :=
  decide (r = y0 ∧ x0 ≤ c ∧ c < x0 + n) && b.getLsbD (7 - (c - x0))

/-- One more bit of the row is one more column. -/
theorem rowLit_succ (x0 y0 : Nat) (b : Byte) (n c r : Nat) :
    rowLit x0 y0 b (n + 1) c r =
      (rowLit x0 y0 b n c r || (decide (c = x0 + n ∧ r = y0) && spriteBit b n)) := by
  by_cases hc : c = x0 + n
  · subst hc
    simp [rowLit, spriteBit]
  · have hsame : (r = y0 ∧ x0 ≤ c ∧ c < x0 + (n + 1)) ↔ (r = y0 ∧ x0 ≤ c ∧ c < x0 + n) := by omega
    simp [rowLit, hsame, hc]

theorem xored_blitBit (x0 : Nat) {y0 : Nat} (b : Byte) (d : Display) (i : Nat) (hy : y0 < 32) :
    Xored (fun c r => decide (c = x0 + i ∧ r = y0) && spriteBit b i) d (d.blitBit x0 y0 b i) where
  px c r hc _ := by simp [getPx_blitBit _ _ _ _ _ _ _ hy, hc]
  collision := by
    simp only [blitBit_collision, Bool.or_eq_true, Bool.and_eq_true, decide_eq_true_eq]
    refine or_congr_right ⟨fun ⟨⟨hc, hbit⟩, hon⟩ => ⟨x0 + i, y0, hc, hy, ⟨⟨rfl, rfl⟩, hbit⟩, hon⟩, ?_⟩
    rintro ⟨c, r, hc, -, ⟨⟨rfl, rfl⟩, hbit⟩, hon⟩
    exact ⟨⟨hc, hbit⟩, hon⟩
  dirty := blitBit_dirty x0 y0 b d i

/-- The first `n` bits of a row, from left to right. -/
theorem xored_blitBits (x0 : Nat) {y0 : Nat} (b : Byte) (d : Display) (n : Nat) (hy : y0 < 32) :
    Xored (rowLit x0 y0 b n) d ((List.range n).foldl (blitBit x0 y0 b) d) := by
  induction n with
  | zero => exact .refl d fun c r _ _ => by simp [rowLit]
  | succ n ih =>
    rw [List.range_succ, List.foldl_append]
    refine ih.trans (xored_blitBit x0 b _ n hy) (fun c r hlit => ?_) fun c r _ _ => rowLit_succ x0 y0 b n c r
    simp only [rowLit, Bool.and_eq_true, decide_eq_true_eq] at hlit
    simp only [Bool.and_eq_false_iff, decide_eq_false_iff_not]
    omega

/-- A row of a sprite on the screen (R145, R146). -/
theorem xored_blitRow (x0 : Nat) {y0 : Nat} (b : Byte) (d : Display) (hy : y0 < 32) :
    Xored (rowLit x0 y0 b 8) d (d.blitRow x0 y0 b) := xored_blitBits x0 b d 8 hy

/-! ### The whole sprite -/

/-- Row `r` of a draw: one past the bottom edge is dropped, when rows do not wrap (R141, R147). -/
theorem xored_drawRow {vwrap : Bool} (cx : Nat) {cy r : Nat} (b : Byte) (d : Display)
    (hrow : vwrap = false ∨ cy + r < 32) :
    Xored (rowLit cx (cy + r) b 8) d (d.drawRow vwrap cx cy r b) := by
  unfold drawRow
  split
  case isTrue hpast =>
    rw [if_neg (by rw [hrow.resolve_right (Nat.not_lt.mpr hpast)]; exact Bool.noConfusion)]
    refine .refl d fun c q _ hq => ?_
    have : q ≠ cy + r := by simp at hpast; omega
    simp [rowLit, this]
  case isFalse hin => exact xored_blitRow cx b d (Nat.not_le.mp hin)

/-- The cells of a sprite's rows from number `r` on, drawn at `(cx, cy)`, whose bits are 1 (R141, R145). -/
def spriteLit (cx cy r : Nat) (rows : List Byte) (c q : Nat) : Bool :=
  decide (cx ≤ c ∧ c < cx + 8 ∧ cy + r ≤ q ∧ q < cy + r + rows.length) &&
    (rows.getD (q - (cy + r)) 0).getLsbD (7 - (c - cx))

/-- A sprite's cells are those of its first row and those of the rest. -/
theorem spriteLit_cons (cx cy r : Nat) (b : Byte) (rows : List Byte) (c q : Nat) :
    spriteLit cx cy r (b :: rows) c q = (rowLit cx (cy + r) b 8 c q || spriteLit cx cy (r + 1) rows c q) := by
  by_cases hq : cy + r < q
  · have hne : q ≠ cy + r := by omega
    have hrest : (cx ≤ c ∧ c < cx + 8 ∧ cy + r ≤ q ∧ q < cy + r + (rows.length + 1)) ↔
        (cx ≤ c ∧ c < cx + 8 ∧ cy + (r + 1) ≤ q ∧ q < cy + (r + 1) + rows.length) := by omega
    have hidx : q - (cy + r) = (q - (cy + (r + 1))) + 1 := by omega
    simp only [spriteLit, rowLit, List.length_cons, hrest, hne, hidx, List.getD_cons_succ, false_and, decide_false,
      Bool.false_and, Bool.false_or]
  · have hrest : ¬ (cx ≤ c ∧ c < cx + 8 ∧ cy + (r + 1) ≤ q ∧ q < cy + (r + 1) + rows.length) := by omega
    have hfirst : (cx ≤ c ∧ c < cx + 8 ∧ cy + r ≤ q ∧ q < cy + r + (rows.length + 1)) ↔
        (q = cy + r ∧ cx ≤ c ∧ c < cx + 8) := by omega
    have hidx : q - (cy + r) = 0 := by omega
    simp only [spriteLit, rowLit, List.length_cons, hrest, hfirst, hidx, List.getD_cons_zero, decide_false,
      Bool.false_and, Bool.or_false]

/-- The rows of a sprite from number `r` on, top to bottom, when they do not wrap (R141, D12). -/
theorem xored_drawRows {vwrap : Bool} (cx : Nat) {cy r : Nat} {rows : List Byte} (d : Display)
    (hrows : vwrap = false ∨ cy + r + rows.length ≤ 32) :
    Xored (spriteLit cx cy r rows) d (drawRows vwrap cx cy r rows d) := by
  induction rows generalizing r d with
  | nil => exact .refl d fun c q _ _ => by simp [spriteLit]
  | cons b rows ih =>
    rw [List.length_cons] at hrows
    refine (xored_drawRow cx b d (hrows.imp_right (by omega))).trans (ih _ (hrows.imp_right (by omega)))
      (fun c q hlit => ?_) fun c q _ _ => spriteLit_cons cx cy r b rows c q
    simp only [rowLit, Bool.and_eq_true, decide_eq_true_eq] at hlit
    have hout : ¬ cy + (r + 1) ≤ q := by omega
    simp [spriteLit, hout]

end Display

/-- Settles O30: one row XORs the cells of `rowLit` and keeps `dirty` (R145, R146). -/
theorem blitRowXorsAndCollides : Obligations.BlitRowXorsAndCollides := by
  intro x0 y0 b d _ hy
  have hrow := Display.xored_blitRow x0 b d hy
  refine ⟨hrow.px, ?_, hrow.dirty⟩
  rw [hrow.collision]
  simp only [Display.rowLit, Bool.and_eq_true, decide_eq_true_eq]
  refine or_congr_right ⟨?_, fun ⟨c, hlow, hhigh, hc, hbit, hon⟩ => ⟨c, y0, hc, hy, ⟨⟨rfl, hlow, hhigh⟩, hbit⟩, hon⟩⟩
  rintro ⟨c, r, hc, -, ⟨⟨rfl, hlow, hhigh⟩, hbit⟩, hon⟩
  exact ⟨c, hlow, hhigh, hc, hbit, hon⟩

/-! ### DXYN -/

/-- The `n` bytes of the sprite at I (R141). -/
def State.spriteRows (s : State) (n : Nibble) : List Byte :=
  (List.range n.toNat).map fun j => Memory.read s.mem (s.I.toNat + j)

/-- A sprite inside memory is drawn (R141). -/
theorem exec_drw_ok (x y : Reg) {n : Nibble} {s : State} (hin : n.toNat = 0 ∨ s.I.toNat + n.toNat ≤ Config.memSize) :
    exec (.drw x y n) s = .next (s.drawn x y (s.spriteRows n)) := by
  rw [exec_drw, readBytes_ok hin]; rfl

/-- The cells a draw at `(cx, cy)` inverts, by the bytes of memory. -/
theorem spriteLit_spriteRows (s : State) (n : Nibble) (cx cy c r : Nat) :
    Display.spriteLit cx cy 0 (s.spriteRows n) c r =
      (decide (cx ≤ c ∧ c < cx + 8 ∧ cy ≤ r ∧ r < cy + n.toNat) &&
        (Memory.read s.mem (s.I.toNat + (r - cy))).getLsbD (7 - (c - cx))) := by
  by_cases hr : r - cy < n.toNat
  · simp [Display.spriteLit, State.spriteRows, hr]
  · have hout : ¬ (cx ≤ c ∧ c < cx + 8 ∧ cy ≤ r ∧ r < cy + n.toNat) := by omega
    simp only [Display.spriteLit, State.spriteRows, List.length_map, List.length_range, Nat.add_zero, hout,
      decide_false, Bool.false_and]

/-- Settles O31: the sprite's rows XOR the cells of `spriteLit` into a display whose collision flag was cleared (R144),
and VF takes the collision last (R148). -/
theorem drawXorsSpriteAndReportsCollision : Obligations.DrawXorsSpriteAndReportsCollision := by
  intro x y n s cx cy lit hcx hcy hlit hin hrows
  have hcells : Display.spriteLit cx cy 0 (s.spriteRows n) = lit :=
    funext₂ fun c r => (spriteLit_spriteRows s n cx cy c r).trans (hlit c r).symm
  have hdrawn : Display.Xored lit s.display.beginDraw (s.drawnDisplay x y (s.spriteRows n)) := by
    rw [← hcells, hcx, hcy]
    exact Display.xored_drawRows _ _ (hrows.imp_right (by simp [State.spriteRows, hcy]))
  refine ⟨_, exec_drw_ok x y hin, rfl, hdrawn.px, hdrawn.collision.trans (or_iff_right Bool.noConfusion),
    fun q => ?_, rfl⟩
  refine (State.readV_writeV _ VF q _).trans ?_
  simp only [eq_comm (a := VF)]
  rfl

/-- Settles O32: the second draw XORs the same cells, for the first changed neither memory, I, V[x] nor V[y]. -/
theorem drawingTwiceRestoresGrid : Obligations.DrawingTwiceRestoresGrid := by
  intro x y n s t u hx hy hin hrows hfirst hsecond c r hc hr
  obtain ⟨t', ht', hframe, hpx, -, hregs, -⟩ :=
    drawXorsSpriteAndReportsCollision x y n s _ _ _ rfl rfl (fun _ _ => rfl) hin hrows
  cases hfirst.symm.trans ht'
  have hVx : t.readV x = s.readV x := (hregs x).trans (if_neg hx)
  have hVy : t.readV y = s.readV y := (hregs y).trans (if_neg hy)
  have hI : t.I = s.I := by rw [hframe]
  have hmem : t.mem = s.mem := by rw [hframe]
  obtain ⟨u', hu', -, hpx', -⟩ := drawXorsSpriteAndReportsCollision x y n t _ _ _ rfl rfl (fun _ _ => rfl)
    (hI ▸ hin) (hVy ▸ hrows)
  cases hsecond.symm.trans hu'
  rw [hpx' c r hc hr, hpx c r hc hr, hVx, hVy, hI, hmem, Bool.xor_assoc, Bool.xor_self, Bool.xor_false]

end Sys2Proof.Machine
end

section
/-!
The record each fatal error of an instruction leaves (60_exceptions.md R171, R174, R176).
-/

namespace Sys2Proof.Machine

theorem exec_ret_error {s : State} (h : s.sp.val = 0) :
    exec .ret s = takeFatal .stackUnderflow (some (s.pc - 2)) (some (encode .ret)) s := by
  rw [exec_ret, State.pop, if_pos h]; rfl

theorem exec_call_error (nnn : Addr) {s : State} (h : s.sp.val = 16) :
    exec (.call nnn) s = takeFatal .stackOverflow (some (s.pc - 2)) (some (encode (.call nnn))) s := by
  rw [exec_call, push_error s.pc (by omega)]; rfl

/-- A sprite that leaves memory takes OutOfBounds at its first address out of range, clipped rows included (R141). -/
theorem exec_drw_error {x y : Reg} {n : Nibble} {s : State} (hn : 0 < n.toNat)
    (hpast : Config.memSize < s.I.toNat + n.toNat) :
    exec (.drw x y n) s = takeFatal (.outOfBounds (max s.I.toNat Config.memSize)) (some (s.pc - 2))
      (some (encode (.drw x y n))) s := by
  rw [exec_drw, readBytes_error hn hpast]; rfl

/-- Settles O40: each execution takes its error, whose record is `faultsWith_takeFatal`'s. -/
theorem instructionErrorsAreRecorded : Obligations.InstructionErrorsAreRecorded := by
  intro s nnn x y n
  refine ⟨fun h => ?_, fun h => ?_, fun hn hpast => ?_, fun hpast => ?_, fun hpast => ?_, fun hpast => ?_⟩
  · rw [exec_ret_error h]
    exact faultsWith_takeFatal _ _ _ _
  · rw [exec_call_error nnn h]
    exact faultsWith_takeFatal _ _ _ _
  · rw [exec_drw_error hn hpast]
    exact faultsWith_takeFatal _ _ _ _
  · rw [exec_ldB, storeAtI_error (bs := bcdDigits (s.readV x)) (List.cons_ne_nil _ _) (Nat.lt_succ_of_le hpast)]
    exact faultsWith_takeFatal _ _ _ _
  · have hlen := regsThrough_length s x
    rw [exec_storeRegs, storeAtI_error (List.ne_nil_of_length_eq_add_one hlen) (hlen.symm ▸ Nat.lt_succ_of_le hpast)]
    exact faultsWith_takeFatal _ _ _ _
  · rw [exec_loadRegs_error (Nat.lt_succ_of_le hpast)]
    exact faultsWith_takeFatal _ _ _ _

end Sys2Proof.Machine
end

section
/-!
The remaining statements of 60_exceptions.md section 3 and of reset and boot: the timers (R191), the keyboard (R193,
R200), the display's queries (R198), the font load (R195), the state at reset (10_state.md R43) and the launch state
(70_reset_and_hazards.md R211 to R213).
-/

namespace Sys2Proof.Machine

/-! ### Timers -/

@[simp] theorem tickTimers_st (s : State) : (tickTimers s).st = tickByte s.st := rfl

/-- The sound timer ticks on its own too. -/
theorem iterate_tickTimers_st (n : Nat) (s : State) : (tickTimers^[n] s).st = tickByte^[n] s.st :=
  Function.Semiconj.iterate_right (f := State.st) tickTimers_st n s

/-- Settles O48: each timer ticks alone, and `toNat_iterate_tickByte` floors its n ticks (R191). -/
theorem ticksFloorBothTimersAtZero : Obligations.TicksFloorBothTimersAtZero := by
  intro s n
  refine ⟨rfl, ?_, ?_, rfl, rfl, ?_⟩
  · rw [iterate_tickTimers_dt, toNat_iterate_tickByte]
  · rw [iterate_tickTimers_st, toNat_iterate_tickByte]
  · rw [soundActive_iff, tickTimers_st, toNat_tickByte]
    omega

/-! ### The keyboard -/

theorem Keyboard.keyUp_of_down {kb : Keyboard} {k : Key} (h : kb.down = some k) :
    kb.keyUp = { down := none, last := some k, signal := true } := by
  rw [Keyboard.keyUp, h]

theorem Keyboard.keyUp_of_none {kb : Keyboard} (h : kb.down = none) : kb.keyUp = kb := by
  rw [Keyboard.keyUp, h]

/-- Settles O50: the two cases of the key that is down (R193). -/
theorem keyUpRecordsRelease : Obligations.KeyUpRecordsRelease := by
  intro kb
  refine ⟨fun k h => ?_, Keyboard.keyUp_of_none⟩
  rw [Keyboard.keyUp_of_down h]
  exact ⟨rfl, rfl, rfl⟩

/-- Settles O51: `isKeyPressed_iff` on a key's own byte; the other queries read the fields, and the worked case is
`keyUp` after `keyDown` (R200). -/
theorem keyboardQueriesReadState : Obligations.KeyboardQueriesReadState := by
  intro s k
  have hup : (s.kb.keyDown 5).keyUp = { down := none, last := some 5, signal := true } := Keyboard.keyUp_of_down rfl
  refine ⟨?_, Iff.rfl, rfl, ?_, ?_, ?_, ?_⟩
  · simp only [isKeyPressed_iff, toNat_keyByte, BitVec.toNat_inj, exists_eq_right]
  all_goals rw [hup]; rfl

/-! ### The display -/

/-- Settles O52: the snapshot's bit `r * 64 + c` has column and row as its remainder and quotient by 64 (R198). -/
theorem displayQueriesAndSnapshotOrder : Obligations.DisplayQueriesAndSnapshotOrder := by
  intro s
  refine ⟨rfl, rfl, rfl, rfl, fun c r hc hr => ?_⟩
  have hcol : (r * 64 + c) % 64 = c := by omega
  have hrow : (r * 64 + c) / 64 = r := by omega
  simp only [snapshot, Vector.getElem_ofFn, hcol, hrow]

theorem exec_cls (s : State) : exec .cls s = .next (s.setDisplay s.display.clear) := rfl

/-- Settles O29: the answer is one write of the display, cleared (R140, R151). -/
theorem clearScreenBlanksAndMarksDirty : Obligations.ClearScreenBlanksAndMarksDirty := fun s =>
  ⟨_, exec_cls s, rfl, fun c r _ _ => getPx_blank c r, rfl, rfl⟩

/-! ### Reset and boot -/

/-- Settles O45: each clause reads a field of the one reset state (R43). -/
theorem resetValues : Obligations.ResetValues := by
  refine ⟨rfl, fun _ => rfl, fun r => ?_, rfl, rfl, rfl, rfl, getPx_blank, rfl, rfl, rfl, rfl, rfl⟩
  exact Vector.getElem_replicate r.isLt

theorem fontTable_length : fontTable.length = 80 := rfl

/-- Settles O53: the load is the block write at 0x50, inside memory by the table's length (R195). -/
theorem fontLoadWritesEightyBytes : Obligations.FontLoadWritesEightyBytes := fun _ hwf =>
  ⟨fontTable_length, writeBlock_readsBack hwf (by rw [fontTable_length]; decide)⟩

/-- Settles O56: the two loads one after the other, each writing its own range: the program's lies above the font's
(R211 to R213). -/
theorem bootReachesLaunchState : Obligations.BootReachesLaunchState := by
  intro program hlen
  obtain ⟨-, s1, hload1, ⟨hs1, hframe1⟩, hfont⟩ :=
    fontLoadWritesEightyBytes { State.reset with hostOps := [.loadProgram program] } State.reset_mem_wf
  have hstep1 : step (State.boot program) = .next s1 := hload1
  have hwf1 : MemCanonical s1 := everyStepKeepsMemoryCanonical (State.boot program) s1 State.reset_mem_wf hstep1
  obtain ⟨hload, -⟩ := programLoadWritesOrFails (s1.setHostOps []) program hwf1
  obtain ⟨s2, hload2, ⟨hs2, hframe2⟩, hprogram⟩ := hload hlen
  have hstep2 : step s1 = .next s2 := by
    rw [hs1] at hload2 ⊢
    exact hload2
  refine ⟨s1, s2, hstep1, hstep2, ?_, fun j hj => ?_, hprogram, fun c hfontOut hprogramOut => ?_⟩
  · rw [hs2, hs1]; rfl
  · have hj80 : j < 80 := hj
    exact (hframe2 (0x50 + j) (.inl (by omega))).trans (hfont j hj)
  · exact (hframe2 c hprogramOut).trans (hframe1 c hfontOut)

end Sys2Proof.Machine
end
